-- ==== Sys2Proof/Word.lean ====
section
/-! DEFINITION. The words the engine's ports carry. -/

namespace Sys2Proof

/-- A byte of a packed request or response (20_memory.md R45). -/
abbrev Byte := BitVec 8

/-- A packed request `q` (30_encoding.md R60). -/
abbrev RequestWord := BitVec 96

/-- A word of a packed response: the status word or a frame slot (30_encoding.md R70). -/
abbrev Word := BitVec 32

/-- A frame slot, unsigned, `SLOT_W = 32` bits (00_scope.md R14). -/
abbrev Slot := BitVec 32

/-- A raw candidate systemcode or unitcode, two's complement, `RAW_W = 32` bits (00_scope.md R14). -/
abbrev RawCode := BitVec 32

/-- A validated or decoded systemcode or unitcode, `FIELD_BITS = 5` bits (00_scope.md R13). -/
abbrev Code := BitVec 5

/-- The demodulated vector, `BINLEN = 12` elements of one bit; bit `i` is element `i`
(10_state.md R29, 30_encoding.md R68). -/
abbrev BitVector := BitVec 12

/-- The pulse frame, `RAWLEN = 50` slots; index 0 is first in time (20_memory.md R43). -/
abbrev Frame := Vector Slot 50

end Sys2Proof
end

