-- ==== Sys2Proof/Syntax.lean ====
section
/-! DEFINITION. The request record and the four operations (10_state.md R23, 30_encoding.md R61). -/

namespace Sys2Proof

/-- Every field of a request but `OP` (R23, R60). One record carries the operands of every
operation; which of them an operation reads is its meaning's matter (R62). -/
structure Request where
  /-- `SYS_P`: a systemcode was supplied -/
  sysP : Bool
  /-- `UNIT_P`: a unitcode was supplied -/
  unitP : Bool
  /-- `ON`: the "on" indicator is present -/
  on : Bool
  /-- `OFF`: the "off" indicator is present -/
  off : Bool
  /-- `BITS`: the bit vector, bit `i` is element `i` -/
  bits : BitVector
  /-- `q[31:18]`: written 0 by the host, ignored by the engine -/
  reserved : BitVec 14
  /-- `RAW_SYS`: the supplied systemcode -/
  rawSys : RawCode
  /-- `RAW_UNIT`: the supplied unitcode -/
  rawUnit : RawCode
  deriving DecidableEq, Repr

/-- The values of `OP` (R61). -/
inductive Op where
  | validate
  | encode
  | decode
  | reserved3
  deriving DecidableEq, Repr

/-- The operations, one constructor for each row of the opcode table. -/
inductive Instr where
  /-- `VALIDATE` (40_validator.md R110) -/
  | validate (q : Request)
  /-- `ENCODE` (41_encoder.md R130) -/
  | encode (q : Request)
  /-- `DECODE` (42_decoder.md R160) -/
  | decode (q : Request)
  /-- `RESERVED3`, the reserved `OP = 3` (60_exceptions.md R205) -/
  | reserved3 (q : Request)
  deriving DecidableEq, Repr

/-- The `OP` of an operation. -/
def Instr.op : Instr → Op
  | .validate _ => .validate
  | .encode _ => .encode
  | .decode _ => .decode
  | .reserved3 _ => .reserved3

/-- The request fields of an operation. -/
def Instr.request : Instr → Request
  | .validate q => q
  | .encode q => q
  | .decode q => q
  | .reserved3 q => q

end Sys2Proof
end

