-- ==== Sys2Proof/WellFormed.lean ====
section
/-! DEFINITION. What a host must keep to when it writes a request. The types of `Request` already
hold every field to its width (R60); what is left is the reserved field. -/

namespace Sys2Proof

/-- The reserved bits `q[31:18]` are "written 0 by the host" (30_encoding.md R60). The engine runs a
request that breaks this and ignores the bits (R72). -/
def Request.wellFormed (q : Request) : Bool := q.reserved == 0#14

/-- An operation as a host may write it. -/
def Instr.wellFormed (i : Instr) : Bool := i.request.wellFormed

end Sys2Proof
end

