-- ==== Sys2Proof/Decode.lean ====
section
/-! DEFINITION. The packed request word and its bytes, read and written (30_encoding.md R60, R61;
20_memory.md R45). -/

namespace Sys2Proof

/-- The code of an operation in `q[1:0]` (R61). -/
def Op.code : Op → BitVec 2
  | .validate => 0#2
  | .encode => 1#2
  | .decode => 2#2
  | .reserved3 => 3#2

/-- The operation `q[1:0]` selects; every value selects one (R61). -/
def Op.ofCode (c : BitVec 2) : Op :=
  if c = 0#2 then .validate
  else if c = 1#2 then .encode
  else if c = 2#2 then .decode
  else .reserved3

/-- The operation `op` on the request fields `q`. -/
def Instr.ofOp : Op → Request → Instr
  | .validate, q => .validate q
  | .encode, q => .encode q
  | .decode, q => .decode q
  | .reserved3, q => .reserved3 q

/-- The fields of a packed request (R60). -/
def decodeRequest (w : RequestWord) : Request where
  sysP := w.getLsbD 2
  unitP := w.getLsbD 3
  on := w.getLsbD 4
  off := w.getLsbD 5
  bits := w.extractLsb' 6 12
  reserved := w.extractLsb' 18 14
  rawSys := w.extractLsb' 32 32
  rawUnit := w.extractLsb' 64 32

/-- The operation a request word names. "The operation is decided by `q[1:0]` alone" (R60), so no
word is refused. -/
def decodeWord (w : RequestWord) : Instr :=
  Instr.ofOp (Op.ofCode (w.extractLsb' 0 2)) (decodeRequest w)

/-- The request word that holds `v` from bit `lo` upward and 0 elsewhere. -/
def place {n : Nat} (lo : Nat) (v : BitVec n) : RequestWord := v.setWidth 96 <<< lo

/-- Why bytes are no request. -/
inductive DecodeError where
  /-- Fewer than the 12 bytes of a request: "This is the only request length" (R60). -/
  | truncatedRequest
  deriving DecidableEq, Repr

/-- A packed request carried as bytes, byte 0 holding bits 7:0 (20_memory.md R45): the first
request and the bytes after it. -/
def decodeBytes : List Byte → Except DecodeError (Instr × List Byte)
  | b0 :: b1 :: b2 :: b3 :: b4 :: b5 :: b6 :: b7 :: b8 :: b9 :: b10 :: b11 :: rest =>
    .ok (decodeWord (place 0 b0 ||| place 8 b1 ||| place 16 b2 ||| place 24 b3 ||| place 32 b4 |||
      place 40 b5 ||| place 48 b6 ||| place 56 b7 ||| place 64 b8 ||| place 72 b9 ||| place 80 b10 |||
      place 88 b11), rest)
  | _ => .error .truncatedRequest

/-- A request packed into its word (R60). -/
def encode (i : Instr) : RequestWord :=
  let q := i.request
  place 0 i.op.code ||| place 2 (BitVec.ofBool q.sysP) ||| place 3 (BitVec.ofBool q.unitP) |||
    place 4 (BitVec.ofBool q.on) ||| place 5 (BitVec.ofBool q.off) ||| place 6 q.bits |||
    place 18 q.reserved ||| place 32 q.rawSys ||| place 64 q.rawUnit

/-- The 12 bytes of a request word, least significant first (20_memory.md R45). -/
def requestBytes (w : RequestWord) : List Byte :=
  (List.range 12).map fun k => w.extractLsb' (8 * k) 8

/-- A request packed into its bytes (R60, 20_memory.md R45). -/
def encodeBytes (i : Instr) : List Byte := requestBytes (encode i)

/-- The request word whose low `nbits` bits are those of `w`, the bits above them 0; of more than 96
bits the low 96 are taken (DESIGN CHOICE, the shorter ones by the host's convention for table words:
notes/assumptions/8.md). -/
def tableWord (nbits w : Nat) : RequestWord := BitVec.ofNat 96 (w % 2 ^ nbits)

/-- The instruction the decoder reads from the table's bits `w` of a row of `nbits` bits. R60 gives
one request length, 96 bits, and says nothing of table words of another. DESIGN CHOICE
(notes/assumptions/8.md): a shorter one is filled up with zeros to a whole request, a longer one is
no instruction. -/
def decodeTableWord (nbits w : Nat) : Option Instr :=
  if nbits ≤ 96 then
    match decodeBytes (requestBytes (tableWord nbits w)) with
    | .ok (i, []) => some i
    | _ => none
  else none

/-- One row of the opcode table: the words `w` with `w &&& mask = pattern`. -/
structure OpcodeRow where
  op : Op
  mask : RequestWord
  pattern : RequestWord
  deriving DecidableEq, Repr

/-- Whether a word is one of a row's. -/
def OpcodeRow.covers (row : OpcodeRow) (w : RequestWord) : Bool := w &&& row.mask == row.pattern

/-- The opcode table (`opcode_table.json`, R61). -/
def opcodeTable : List OpcodeRow :=
  [⟨.validate, 3#96, 0#96⟩, ⟨.encode, 3#96, 1#96⟩, ⟨.decode, 3#96, 2#96⟩, ⟨.reserved3, 3#96, 3#96⟩]

end Sys2Proof
end

