-- ==== Sys2Proof/Config.lean ====
section
/-! DEFINITION. The implementation parameters (00_scope.md R9 to R14), the condition under which a
configuration is legal, and the free values of the parameters no source gives. -/

namespace Sys2Proof

/-- `PULSE`, the pulse multiplier (R10). -/
def pulse : Nat := 3

/-- `RAWLEN`, the frame length in slots (R13). -/
def rawLen : Nat := 50

/-- `BINLEN`, the bit-vector length (R13). -/
def binLen : Nat := 12

/-- `FIELD_BITS`, the width of systemcode and unitcode (R13). -/
def fieldBits : Nat := 5

/-- `SLOT_W`, the width of a frame slot (R14). -/
def slotW : Nat := 32

/-- `RAW_W`, the width of a raw candidate (R14). -/
def rawW : Nat := 32

/-- The largest systemcode and unitcode, exposed as `META_OPT_MAX` (10_state.md R27). -/
def optMax : Nat := 31

/-- The parameters an engine is built with (R9, R11, R12), before any check. -/
structure Parameters where
  /-- `PLSLEN` -/
  plslen : Nat
  /-- `PULSE_DIV` -/
  pulseDiv : Nat
  /-- `PROTOCOL_ID` -/
  protocolId : Nat
  /-- `DEVICE_CLASS` -/
  deviceClass : Nat
  /-- `HW_CLASS` -/
  hwClass : Nat
  deriving DecidableEq, Repr

/-- A legal configuration (R9, R11, R14): both factors at least 1, and the long and the final footer
slot fit a slot, so that no slot value ever wraps. -/
abbrev Parameters.Legal (p : Parameters) : Prop :=
  1 ≤ p.plslen ∧ 1 ≤ p.pulseDiv ∧ pulse * p.plslen ≤ 2 ^ slotW - 1 ∧
    p.pulseDiv * p.plslen ≤ 2 ^ slotW - 1

/-- The configuration of an engine that exists: parameters together with the fact that they are
legal. R243 and 93_implementation_defined.md I16 refuse to build any other (`State.build`). -/
structure Config where
  params : Parameters
  legal : params.Legal
  deriving DecidableEq, Repr

/-- The default `PLSLEN` (R9). -/
def defaultPlslen : Nat := 312

/-- The free value behind `PULSE_DIV` of the engine `State.reset` describes (R11: no source gives
one; notes/assumptions/1.md). -/
opaque Config.freePulseDiv : Nat

/-- The free value of `PROTOCOL_ID` (R12; notes/assumptions/1.md). -/
opaque Config.freeProtocolId : Nat

/-- The free value of `DEVICE_CLASS` (R12; notes/assumptions/1.md). -/
opaque Config.freeDeviceClass : Nat

/-- The free value of `HW_CLASS` (R12; notes/assumptions/1.md). -/
opaque Config.freeHwClass : Nat

/-- The parameters of the engine `State.reset` describes: `PLSLEN` at its default, `PULSE_DIV` any
legal value (every value from 1 to the largest legal one is reached by some `freePulseDiv`), the
metadata codes free (DESIGN CHOICE, notes/assumptions/1.md). -/
def Parameters.installed : Parameters where
  plslen := defaultPlslen
  pulseDiv := 1 + Config.freePulseDiv % ((2 ^ slotW - 1) / defaultPlslen)
  protocolId := Config.freeProtocolId
  deviceClass := Config.freeDeviceClass
  hwClass := Config.freeHwClass

theorem Parameters.installed_legal : Parameters.installed.Legal := by
  simp only [Legal, installed, defaultPlslen, pulse, slotW]
  omega

/-- The configuration of the engine `State.reset` describes. -/
def Config.installed : Config := ⟨Parameters.installed, Parameters.installed_legal⟩

end Sys2Proof
end

