-- ==== Sys2Proof/Machine/State.lean ====
section
/-! DEFINITION. The engine's state, the ports around it, the causes and the reasons a step stops
(10_state.md, 60_exceptions.md). -/

namespace Sys2Proof.Machine

/-- The switch action of a command (00_scope.md R18). -/
inductive OnOff where
  | on
  | off
  deriving DecidableEq, Repr

/-- A command `{sys, unit, state}` (40_validator.md R100). -/
structure Command where
  sys : Code
  unit : Code
  state : OnOff
  deriving DecidableEq, Repr

/-- The fields a validation failure can name (R25: FIELD codes 0 to 2). -/
inductive CommandField where
  | systemcode
  | unitcode
  | state
  deriving DecidableEq, Repr

/-- The outcome codes a response can carry (R25); the codes 5 to 7 are never produced. -/
inductive Status where
  | ok
  | missingField
  | outOfRange
  | suppressed
  | illegalOp
  deriving DecidableEq, Repr

/-- The exceptions the operations raise (60_exceptions.md R202 to R205). -/
inductive Cause where
  | missingField (f : CommandField)
  | outOfRange (f : CommandField)
  | suppressedDecode
  | illegalOp
  deriving DecidableEq, Repr

/-- A response (R24). `field = none` is `FIELD = 3`; the command part is the CommandMessage
(43_message.md R170). -/
structure Response where
  op : Op
  status : Status
  field : Option CommandField
  cmdValid : Bool
  systemcode : Code
  unitcode : Code
  /-- `STATE`: true is On -/
  state : Bool
  frameValid : Bool
  frame : Frame
  deriving DecidableEq, Repr

/-- The severity of a diagnostic record, always ERROR (R26). -/
inductive Severity where
  | error
  deriving DecidableEq, Repr

/-- The class of a diagnostic record (R26). -/
inductive DiagClass where
  | missing
  | outOfRange
  deriving DecidableEq, Repr

/-- A diagnostic record (R26). -/
structure Diag where
  severity : Severity
  field : CommandField
  kind : DiagClass
  deriving DecidableEq, Repr

/-- The metadata outputs (R27). -/
structure Metadata where
  /-- `META_PROTOCOL_ID` -/
  protocolId : Nat
  /-- `META_DEVICE_CLASS` -/
  deviceClass : Nat
  /-- `META_HW_CLASS` -/
  hwClass : Nat
  /-- `META_PLSLEN` -/
  plslen : Nat
  /-- `META_PULSE` -/
  pulse : Nat
  /-- `META_PULSE_DIV` -/
  pulseDiv : Nat
  /-- `META_RAWLEN` -/
  rawLen : Nat
  /-- `META_BINLEN` -/
  binLen : Nat
  /-- `META_OPT_MAX` -/
  optMax : Nat
  deriving DecidableEq, Repr

/-- What a read of the outputs gave the host. -/
inductive Reading where
  | response (r : Response)
  | metadata (m : Metadata)
  deriving DecidableEq, Repr

/-- What happens next at the engine's ports. A list of these says in which order the host and the
engine move (notes/assumptions/3.md). -/
inductive Action where
  /-- The engine has the turn: ACCEPT if it is enabled (R31). -/
  | engine
  /-- The host puts a request on the request port, in place of one not yet accepted (R251). -/
  | offer (w : RequestWord)
  /-- The host stops offering. -/
  | withdraw
  /-- The host takes the pending response, waiting for one if there is none (R31). -/
  | take
  /-- The engine is reset (70_reset_and_hazards.md R240). -/
  | reset
  /-- The host reads the response fields without taking them (R47, R253). -/
  | readResponse
  /-- The host reads the metadata outputs (R27). -/
  | readMetadata
  deriving DecidableEq, Repr

/-- The engine's state `pending`, its output history `diag`, and the ports: what the host offers
and will do, and what it has been given. The configuration stands beside them and is never written
(R22, 70_reset_and_hazards.md R250). -/
structure State where
  /-- The response register; `none` is `RSP_VALID = 0` (R22). -/
  pending : Option Response
  /-- The diagnostic output, oldest record first (R26). -/
  diag : List Diag
  /-- The request port: the request the host offers, if any (R23, R31). -/
  offered : Option RequestWord
  /-- What will happen at the ports, next first (notes/assumptions/3.md). -/
  script : List Action
  /-- The responses TAKE has given the host, oldest first (R31, 43_message.md R173). -/
  taken : List Response
  /-- What reads have given the host, oldest first (R47). -/
  readings : List Reading
  /-- The configuration parameters, fixed for the lifetime of the engine (R22). -/
  config : Config
  deriving DecidableEq, Repr

/-- Why the machine stops. -/
inductive Fault where
  /-- Raised by the host's read of the response fields while `RSP_VALID = 0`: "a host must not use
  them otherwise, and a model treats such a read as a fault" (70_reset_and_hazards.md R253). Safe:
  the model gives no value and goes no further. -/
  | readWithoutResponse
  deriving DecidableEq, Repr

/-- Why the machine gives no meaning. -/
inductive Refusal where
  /-- Raised by `exec` for an operation that has no meaning yet; no operation is left so. Safe. -/
  | notModelled (mnemonic : String)
  /-- Raised by `State.build` for parameters that are not legal: "a model refuses an instance whose
  configuration is not legal" (70_reset_and_hazards.md R243). Safe: such an engine has no runs. -/
  | illegalConfiguration
  deriving DecidableEq, Repr

/-- An engine with configuration `c` right after reset (R32): no response pending. Nothing has
been appended to the diagnostic output, offered, taken or read yet. -/
def State.resetWith (c : Config) : State where
  pending := none
  diag := []
  offered := none
  script := []
  taken := []
  readings := []
  config := c

/-- The machine right after reset (R32), in the configuration of `Config.installed`. -/
def State.reset : State := State.resetWith Config.installed

end Sys2Proof.Machine
end

