-- ==== Sys2Proof/Machine/Flags.lean ====
section
/-! DEFINITION. The status of a response. The engine has no condition flags (10_state.md section 3);
what stands here is what each cause reports and how a response is packed (R25, R26, R70). -/

namespace Sys2Proof.Machine

/-- `STATUS` (10_state.md R25). -/
def Status.code : Status → BitVec 3
  | .ok => 0#3
  | .missingField => 1#3
  | .outOfRange => 2#3
  | .suppressed => 3#3
  | .illegalOp => 4#3

/-- `FIELD` of a named field (10_state.md R25). -/
def CommandField.code : CommandField → BitVec 2
  | .systemcode => 0#2
  | .unitcode => 1#2
  | .state => 2#2

/-- `FIELD`, 3 where no field is named (10_state.md R25). -/
def fieldCode : Option CommandField → BitVec 2
  | some f => f.code
  | none => 3#2

/-- The `STATUS` a cause reports (60_exceptions.md R202 to R205). -/
def Cause.status : Cause → Status
  | .missingField _ => .missingField
  | .outOfRange _ => .outOfRange
  | .suppressedDecode => .suppressed
  | .illegalOp => .illegalOp

/-- The field a cause names (60_exceptions.md R202 to R205). -/
def Cause.field : Cause → Option CommandField
  | .missingField f => some f
  | .outOfRange f => some f
  | .suppressedDecode => none
  | .illegalOp => none

/-- The diagnostic record a cause leaves: one for a validation failure, none for the others
(10_state.md R26, 60_exceptions.md R202 to R205). -/
def Cause.diag : Cause → List Diag
  | .missingField f => [⟨.error, f, .missing⟩]
  | .outOfRange f => [⟨.error, f, .outOfRange⟩]
  | .suppressedDecode => []
  | .illegalOp => []

/-- `STATE` of a command: 1 is On (43_message.md R170). -/
def OnOff.bit : OnOff → Bool
  | .on => true
  | .off => false

/-- The word that holds `v` from bit `lo` upward and 0 elsewhere. -/
def placeWord {n : Nat} (lo : Nat) (v : BitVec n) : Word := v.setWidth 32 <<< lo

/-- The packed status word (30_encoding.md R70). -/
def Response.statusWord (r : Response) : Word :=
  placeWord 0 r.status.code ||| placeWord 3 (fieldCode r.field) |||
    placeWord 5 (BitVec.ofBool r.frameValid) ||| placeWord 6 (BitVec.ofBool r.cmdValid) |||
    placeWord 7 (BitVec.ofBool r.state) ||| placeWord 8 r.systemcode ||| placeWord 13 r.unitcode |||
    placeWord 18 r.op.code

/-- A packed response: the status word, then the 50 slots (30_encoding.md R70). -/
def Response.words (r : Response) : List Word := r.statusWord :: r.frame.toList

/-- The bytes of a word, least significant first (20_memory.md R45). -/
def wordBytes (w : Word) : List Byte := (List.range 4).map fun k => w.extractLsb' (8 * k) 8

/-- A packed response carried as bytes (30_encoding.md R70, 20_memory.md R45). -/
def Response.bytes (r : Response) : List Byte := r.words.flatMap wordBytes

end Sys2Proof.Machine
end

