-- ==== Sys2Proof/Machine/Operands.lean ====
section
/-! DEFINITION. The operand forms: presence and range of the command operands (40_validator.md),
the binary expansions and the slot windows (30_encoding.md section 2), the durations. -/

namespace Sys2Proof.Machine

/-- The range a systemcode or unitcode must lie in, checked on the signed value
(40_validator.md R102, R103). -/
def inCodeRange (v : Int) : Bool := decide (0 ≤ v) && decide (v ≤ optMax)

/-- The command operands checked: presence of each field first, then the ranges, the first failure
reported (40_validator.md R101 to R105). -/
def validate (q : Request) : Except Cause Command :=
  if q.sysP = false then .error (.missingField .systemcode)
  else if q.unitP = false then .error (.missingField .unitcode)
  else if q.on = q.off then .error (.missingField .state)
  else if inCodeRange q.rawSys.toInt = false then .error (.outOfRange .systemcode)
  else if inCodeRange q.rawUnit.toInt = false then .error (.outOfRange .unitcode)
  else .ok ⟨q.rawSys.setWidth 5, q.rawUnit.setWidth 5, if q.on then .on else .off⟩

/-- The bits of a code, least significant first (30_encoding.md R66). -/
def toBits (n : Code) : List Bool := (List.range fieldBits).map n.getLsbD

/-- The number whose bits, least significant first, are elements `lo` to `hi` of a bit vector
(30_encoding.md R67). -/
def fromBits (bits : BitVector) (lo hi : Nat) : Nat :=
  ((List.range (hi + 1 - lo)).map fun k => (bits.getLsbD (lo + k)).toNat * 2 ^ k).sum

/-- The four slots of a field bit (30_encoding.md R65). -/
def slotWindow (fieldOffset bitIndex : Nat) : List Nat :=
  [fieldOffset + 4 * bitIndex, fieldOffset + 4 * bitIndex + 1, fieldOffset + 4 * bitIndex + 2,
    fieldOffset + 4 * bitIndex + 3]

/-- Where the systemcode field begins (30_encoding.md R65). -/
def sysOffset : Nat := 0

/-- Where the unitcode field begins (30_encoding.md R65). -/
def unitOffset : Nat := 20

/-- Where the state window begins (30_encoding.md R65). -/
def stateOffset : Nat := 44

/-- `S`, the short duration (00_scope.md R17). -/
def shortSlot (c : Config) : Slot := BitVec.ofNat 32 c.params.plslen

/-- `L`, the long duration (00_scope.md R10, R17). -/
def longSlot (c : Config) : Slot := BitVec.ofNat 32 (pulse * c.params.plslen)

/-- `F`, the final footer slot (00_scope.md R17, 41_encoder.md R125). -/
def footerSlot (c : Config) : Slot := BitVec.ofNat 32 (c.params.pulseDiv * c.params.plslen)

/-- `LOW`, the pattern of bit 0 (30_encoding.md R63). -/
def lowPattern (c : Config) : List Slot := [shortSlot c, longSlot c, longSlot c, shortSlot c]

/-- `HIGH`, the pattern of bit 1 (30_encoding.md R63). -/
def highPattern (c : Config) : List Slot := [shortSlot c, longSlot c, shortSlot c, longSlot c]

/-- The command in a bit vector, none where the unitcode is 0 (42_decoder.md R150 to R155). -/
def decodeBits (bits : BitVector) : Option Command :=
  if fromBits bits 5 9 = 0 then none
  else some ⟨BitVec.ofNat 5 (fromBits bits 0 4), BitVec.ofNat 5 (fromBits bits 5 9),
    if bits.getLsbD 11 = false then .on else .off⟩

end Sys2Proof.Machine
end

