-- ==== Sys2Proof/Machine/Ops.lean ====
section
/-! DEFINITION. The named operations over the response register and the ports: completing a
transaction with a response, raising an exception, and the host's side of the ports. The engine has
no memory and no registers to read or write (10_state.md R20, 20_memory.md R40). -/

namespace Sys2Proof.Machine

/-- The frame of a response that carries none: all 50 slots 0 (10_state.md R24). -/
def blankFrame : Frame := Vector.replicate 50 0#32

/-- The error response of an exception (60_exceptions.md R201). -/
def errorResponse (op : Op) (status : Status) (field : Option CommandField) : Response where
  op := op
  status := status
  field := field
  cmdValid := false
  systemcode := 0#5
  unitcode := 0#5
  state := false
  frameValid := false
  frame := blankFrame

/-- The response that carries a command and no frame (40_validator.md R110, 42_decoder.md R160). -/
def commandResponse (op : Op) (c : Command) : Response where
  op := op
  status := .ok
  field := none
  cmdValid := true
  systemcode := c.sys
  unitcode := c.unit
  state := c.state.bit
  frameValid := false
  frame := blankFrame

/-- The response that carries a command and its frame (41_encoder.md R130). -/
def frameResponse (op : Op) (c : Command) (frame : Frame) : Response :=
  { commandResponse op c with frameValid := true, frame := frame }

/-- `respond(r)`: the transaction completes with response `r` (00_scope.md R16). -/
def respond (r : Response) (s : State) : State := { s with pending := some r }

/-- `emit_diag` of each record of `ds`, in order (00_scope.md R16). -/
def emitDiag (ds : List Diag) (s : State) : State := { s with diag := s.diag ++ ds }

/-- Taking an exception: the error response becomes pending and a validation failure leaves its one
diagnostic record. Nothing is saved and control goes nowhere (60_exceptions.md R201, R207). -/
def raise (op : Op) (c : Cause) (s : State) : State :=
  respond (errorResponse op c.status c.field) (emitDiag c.diag s)

/-- TAKE of the pending response `r`: the host receives it and the register is empty. After an error
response too, this is all there is: there is no return from an exception (10_state.md R31,
60_exceptions.md R208). -/
def takeResponse (r : Response) (s : State) : State :=
  { s with pending := none, taken := s.taken ++ [r] }

/-- Reset empties the response register and touches nothing else (70_reset_and_hazards.md R240,
R242). -/
def resetEngine (s : State) : State := { s with pending := none }

/-- The request the host offers becomes `w` (70_reset_and_hazards.md R251). -/
def offerRequest (w : RequestWord) (s : State) : State := { s with offered := some w }

/-- The host offers nothing. -/
def withdrawRequest (s : State) : State := { s with offered := none }

/-- The metadata outputs of a configuration (10_state.md R27). -/
def metadata (c : Config) : Metadata where
  protocolId := c.params.protocolId
  deviceClass := c.params.deviceClass
  hwClass := c.params.hwClass
  plslen := c.params.plslen
  pulse := pulse
  pulseDiv := c.params.pulseDiv
  rawLen := rawLen
  binLen := binLen
  optMax := optMax

/-- The host notes what a read gave it; the engine is not touched (20_memory.md R47). -/
def noteReading (x : Reading) (s : State) : State := { s with readings := s.readings ++ [x] }

/-- A read of the response fields, which carry a value only while a response is pending
(70_reset_and_hazards.md R253). -/
def readResponse (s : State) : Host.Outcome State Fault Refusal :=
  match s.pending with
  | some r => .next (noteReading (.response r) s)
  | none => .fault .readWithoutResponse

/-- A read of the metadata outputs, possible at any time (10_state.md R27). -/
def readMetadata (s : State) : State := noteReading (.metadata (metadata s.config)) s

/-- Building an engine: refused where the parameters are not legal (00_scope.md R14,
70_reset_and_hazards.md R243). -/
def State.build (p : Parameters) : Host.Outcome State Fault Refusal :=
  if h : p.Legal then .next (State.resetWith ⟨p, h⟩) else .refused .illegalConfiguration

end Sys2Proof.Machine
end

