-- ==== Sys2Proof/Machine/Decoder.lean ====
section
/-! DEFINITION. DECODE (42_decoder.md section 2). -/

namespace Sys2Proof.Machine

/-- DECODE (42_decoder.md R160). -/
def execDecode (q : Request) (s : State) : Host.Outcome State Fault Refusal :=
  match decodeBits q.bits with
  | none => .next (raise .decode .suppressedDecode s)
  | some c => .next (respond (commandResponse .decode c) s)

end Sys2Proof.Machine
end

