-- ==== Sys2Proof/Machine/Encoder.lean ====
section
/-! DEFINITION. The pulse encoder and ENCODE (41_encoder.md). -/

namespace Sys2Proof.Machine

/-- The slots `idxs` overwritten with `vals`, one value a slot. -/
def writeSlots (idxs : List Nat) (vals : List Slot) (f : Frame) : Frame :=
  (idxs.zip vals).foldl (fun f p => f.setIfInBounds p.1 p.2) f

/-- The initial fill: every window 0 to 11 is `LOW` (41_encoder.md R121). What slots 48 and 49 hold
before the footer is not observable; here it is 0. -/
def fillLow (c : Config) (f : Frame) : Frame :=
  (List.range 12).foldl (fun f w => writeSlots (slotWindow 0 w) (lowPattern c) f) f

/-- A field: the window of each set bit, least significant first, overwritten with `HIGH`
(41_encoder.md R122, R123). -/
def writeField (c : Config) (fieldOffset : Nat) (n : Code) (f : Frame) : Frame :=
  (toBits n).zipIdx.foldl
    (fun f b => if b.1 then writeSlots (slotWindow fieldOffset b.2) (highPattern c) f else f) f

/-- The state window (41_encoder.md R124). -/
def writeState (c : Config) (x : OnOff) (f : Frame) : Frame :=
  match x with
  | .on => writeSlots (slotWindow stateOffset 0) (highPattern c) f
  | .off => f

/-- The footer (41_encoder.md R125). -/
def writeFooter (c : Config) (f : Frame) : Frame :=
  writeSlots [48, 49] [shortSlot c, footerSlot c] f

/-- `buildFrame(c)`: the fill first, the fields, the footer last (41_encoder.md R120, R126). -/
def buildFrame (cfg : Config) (c : Command) : Frame :=
  writeFooter cfg (writeState cfg c.state (writeField cfg unitOffset c.unit
    (writeField cfg sysOffset c.sys (fillLow cfg blankFrame))))

/-- ENCODE (41_encoder.md R130). -/
def execEncode (q : Request) (s : State) : Host.Outcome State Fault Refusal :=
  match validate q with
  | .error c => .next (raise .encode c s)
  | .ok c => .next (respond (frameResponse .encode c (buildFrame s.config c)) s)

end Sys2Proof.Machine
end

