-- ==== Sys2Proof/Machine/Reserved.lean ====
section
/-! DEFINITION. The reserved operation (60_exceptions.md R205). -/

namespace Sys2Proof.Machine

/-- RESERVED3: `IllegalOp`, raised "before any operand is read" (60_exceptions.md R205). -/
def execReserved3 (_q : Request) (s : State) : Host.Outcome State Fault Refusal :=
  .next (raise .reserved3 .illegalOp s)

end Sys2Proof.Machine
end

