-- ==== Sys2Proof/Machine/Validator.lean ====
section
/-! DEFINITION. VALIDATE (40_validator.md section 2). -/

namespace Sys2Proof.Machine

/-- VALIDATE (40_validator.md R110). -/
def execValidate (q : Request) (s : State) : Host.Outcome State Fault Refusal :=
  match validate q with
  | .error c => .next (raise .validate c s)
  | .ok c => .next (respond (commandResponse .validate c) s)

end Sys2Proof.Machine
end

