-- ==== Sys2Proof/Machine/Dispatch.lean ====
section
/-! DEFINITION. `exec(q)`: one arm for each operation (10_state.md R31, 30_encoding.md R61). -/

namespace Sys2Proof.Machine

def exec (i : Instr) (s : State) : Host.Outcome State Fault Refusal :=
  match i with
  | .validate q => Sys2Proof.Machine.execValidate q s
  | .encode q => Sys2Proof.Machine.execEncode q s
  | .decode q => Sys2Proof.Machine.execDecode q s
  | .reserved3 q => Sys2Proof.Machine.execReserved3 q s

end Sys2Proof.Machine
end

