-- ==== Sys2Proof/Machine/Turn.lean ====
section
/-! DEFINITION. The two steps of the engine, ACCEPT and TAKE, and what else can happen at its ports
(10_state.md R31, 70_reset_and_hazards.md). -/

namespace Sys2Proof.Machine

/-- The engine's turn: ACCEPT where no response is pending and a request is offered, which uses the
offer up; otherwise nothing, the engine keeps its state (10_state.md R31, 60_exceptions.md R215). -/
def engineTurn (s : State) : Host.Outcome State Fault Refusal :=
  match s.pending, s.offered with
  | none, some w => exec (decodeWord w) (withdrawRequest s)
  | _, _ => .next s

/-- One action at the ports. A TAKE for which no response is pending is not enabled
(10_state.md R31): the host waits, the TAKE stays the next action and the engine has the turn. -/
def act (a : Action) (rest : List Action) (s : State) : Host.Outcome State Fault Refusal :=
  match a with
  | .engine => engineTurn { s with script := rest }
  | .offer w => .next (offerRequest w { s with script := rest })
  | .withdraw => .next (withdrawRequest { s with script := rest })
  | .take =>
    match s.pending with
    | some r => .next (takeResponse r { s with script := rest })
    | none => engineTurn s
  | .reset => .next (resetEngine { s with script := rest })
  | .readResponse => readResponse { s with script := rest }
  | .readMetadata => .next (readMetadata { s with script := rest })

/-- One step: the next action of the script, or the engine's turn when the host does nothing. -/
def turn (s : State) : Host.Outcome State Fault Refusal :=
  match s.script with
  | [] => engineTurn s
  | a :: rest => act a rest s

/-- The state in which the next step accepts the request `w`: it is offered, the response register
is empty and the engine has the turn (notes/assumptions/11.md). -/
def offeringNow (w : RequestWord) (s : State) : State :=
  { s with pending := none, offered := some w, script := .engine :: s.script }

end Sys2Proof.Machine
end

