-- ==== Sys2Proof/Machine/Step.lean ====
section
/-! DEFINITION. The step of the machine, and how an instruction comes to be the next one. -/

namespace Sys2Proof.Machine

/-- One step of the machine (10_state.md R31). -/
def step (s : State) : Host.Outcome State Fault Refusal := turn s

/-- `s` with the request whose low `nbits` bits are those of `w` accepted by the very next step
(notes/assumptions/11.md). DESIGN CHOICE (notes/assumptions/8.md): of more than 96 bits it places the
low 96 as a request, though `decodeTableWord` reads no instruction from them. -/
def State.withFetchWord (s : State) (nbits w : Nat) : State := offeringNow (tableWord nbits w) s

end Sys2Proof.Machine
end

