-- ==== Sys2Proof/Machine/Platform.lean ====
section
/-! DEFINITION. Several engines side by side (20_memory.md R51, 60_exceptions.md R214). -/

namespace Sys2Proof.Machine

/-- Engines that share nothing but the configuration each was built with: "the product of
independent single-instance models with one configuration" (R51). -/
structure Platform where
  config : Config
  engines : List State
  deriving DecidableEq, Repr

/-- Every engine has the one configuration. -/
def Platform.uniform (p : Platform) : Bool := p.engines.all fun s => s.config == p.config

/-- `n` engines right after reset. -/
def Platform.build (c : Config) (n : Nat) : Platform := ⟨c, List.replicate n (State.resetWith c)⟩

/-- Engine `k` takes a step and the others stand still; the place in the list is the model's own
name for an engine, "there are no instance identifiers" (R214). With no engine `k` nothing moves. -/
def Platform.step (k : Nat) (p : Platform) : Host.Outcome Platform Fault Refusal :=
  match p.engines[k]? with
  | none => .next p
  | some s =>
    match Sys2Proof.Machine.step s with
    | .next t => .next { p with engines := p.engines.set k t }
    | .fault r => .fault r
    | .refused r => .refused r

end Sys2Proof.Machine
end

