-- ==== Sys2Proof/Machine/Text.lean ====
section
/-! DEFINITION. The request text syntax, read into the operation it stands for (30_encoding.md
R73). A line is its list of characters; words stand between spaces. -/

namespace Sys2Proof.Machine

/-- Why a line is no request. -/
inductive TextRefusal where
  /-- The first word is none of the four operations. -/
  | unknownOperation
  /-- A word is not an operand the operation takes at that place. -/
  | malformedOperand
  /-- The integer is outside `-2^31 .. 2^31-1` (93_implementation_defined.md I15). -/
  | notRepresentable
  deriving DecidableEq, Repr

/-- The line cut at its spaces, with empty words where spaces meet. -/
def cutWords : List Char → List (List Char)
  | [] => [[]]
  | c :: cs =>
    match cutWords cs with
    | [] => [[c]]
    | w :: ws => if c = ' ' then [] :: w :: ws else (c :: w) :: ws

/-- The words of a line. -/
def lineWords (line : List Char) : List (List Char) := (cutWords line).filter fun w => !w.isEmpty

/-- What stands after `pre` in a word that begins with it. -/
def stripKey : List Char → List Char → Option (List Char)
  | [], w => some w
  | _ :: _, [] => none
  | p :: ps, c :: cs => if p = c then stripKey ps cs else none

/-- A decimal number of at least one digit. -/
def readNat (ds : List Char) : Option Nat :=
  if ds.isEmpty || !ds.all Char.isDigit then none
  else some (ds.foldl (fun n d => 10 * n + (d.toNat - '0'.toNat)) 0)

/-- `<int>`: a decimal integer with optional leading `-` (R73). -/
def readInt : List Char → Option Int
  | '-' :: ds => (readNat ds).map fun n => -(n : Int)
  | ds => (readNat ds).map fun n => (n : Int)

/-- A raw candidate, refused where 32 bits cannot hold it (R73). -/
def readRaw (w : List Char) : Except TextRefusal RawCode :=
  match readInt w with
  | none => .error .malformedOperand
  | some v =>
    if -(2 ^ 31) ≤ v ∧ v ≤ 2 ^ 31 - 1 then .ok (BitVec.ofInt 32 v) else .error .notRepresentable

/-- An optional `key=<int>` at the head of the words: present or not, the raw value, the words
left (R73). -/
def readCode (key : List Char) (ws : List (List Char)) :
    Except TextRefusal (Bool × RawCode × List (List Char)) :=
  match ws with
  | [] => .ok (false, 0#32, [])
  | w :: rest =>
    match stripKey key w with
    | none => .ok (false, 0#32, w :: rest)
    | some v =>
      match readRaw v with
      | .ok n => .ok (true, n, rest)
      | .error e => .error e

/-- An optional word without a value at the head of the words (R73). -/
def readMark (mark : List Char) (ws : List (List Char)) : Bool × List (List Char) :=
  match ws with
  | [] => (false, [])
  | w :: rest => if w = mark then (true, rest) else (false, w :: rest)

/-- The request in which nothing is supplied. -/
def emptyRequest : Request where
  sysP := false
  unitP := false
  on := false
  off := false
  bits := 0#12
  reserved := 0#14
  rawSys := 0#32
  rawUnit := 0#32

/-- `[systemcode=<int>] [unitcode=<int>] [on] [off]` (R73). -/
def readCommand (ws : List (List Char)) : Except TextRefusal Request :=
  match readCode "systemcode=".toList ws with
  | .error e => .error e
  | .ok (sysP, rawSys, ws1) =>
    match readCode "unitcode=".toList ws1 with
    | .error e => .error e
    | .ok (unitP, rawUnit, ws2) =>
      match readMark "on".toList ws2 with
      | (on, ws3) =>
        match readMark "off".toList ws3 with
        | (off, []) =>
          .ok { emptyRequest with
            sysP := sysP, unitP := unitP, on := on, off := off, rawSys := rawSys, rawUnit := rawUnit }
        | _ => .error .malformedOperand

/-- The value of a list of bits, the first having weight 1. -/
def bitsValue : List Char → Option Nat
  | [] => some 0
  | c :: cs =>
    match bitsValue cs with
    | none => none
    | some n => if c = '0' then some (2 * n) else if c = '1' then some (2 * n + 1) else none

/-- `bits=<b0><b1>...<b11>`: exactly 12 characters, the first being `BITS[0]` (R73). -/
def readBits (w : List Char) : Except TextRefusal BitVector :=
  match stripKey "bits=".toList w with
  | none => .error .malformedOperand
  | some cs =>
    if cs.length = binLen then
      match bitsValue cs with
      | some n => .ok (BitVec.ofNat 12 n)
      | none => .error .malformedOperand
    else .error .malformedOperand

/-- A request line (R73). Keywords are case-sensitive. -/
def readRequest (line : List Char) : Except TextRefusal Instr :=
  match lineWords line with
  | [] => .error .unknownOperation
  | op :: ws =>
    if op = "VALIDATE".toList then (readCommand ws).map Instr.validate
    else if op = "ENCODE".toList then (readCommand ws).map Instr.encode
    else if op = "DECODE".toList then
      match ws with
      | [w] => (readBits w).map fun b => .decode { emptyRequest with bits := b }
      | _ => .error .malformedOperand
    else if op = "RESERVED3".toList then
      match ws with
      | [] => .ok (.reserved3 emptyRequest)
      | _ :: _ => .error .malformedOperand
    else .error .unknownOperation

end Sys2Proof.Machine
end

