-- ==== Sys2Proof/Machine/Reference.lean ====
section
/-! DEFINITION. The reference thresholding, which states laws and which the engine never computes
(30_encoding.md section 5). -/

namespace Sys2Proof.Machine

/-- The four slots of window `w` of a frame (30_encoding.md R64). -/
def window (f : Frame) (w : Nat) : List Slot := (slotWindow 0 w).map fun i => f.toList.getD i 0#32

/-- `threshold(frame)`: element `w` is 1 where window `w` is `HIGH` (30_encoding.md R74). A window
that is neither pattern, which no encoded frame has, gives 0 (notes/assumptions/13.md). -/
def threshold (c : Config) (f : Frame) : BitVector :=
  (List.range binLen).foldl
    (fun b w => if window f w = highPattern c then b ||| 1#12 <<< w else b) 0#12

/-- How long a frame lasts on air, in the units of `PLSLEN` (41_encoder.md R128). -/
def duration (f : Frame) : Nat := (f.toList.map BitVec.toNat).sum

end Sys2Proof.Machine
end

