-- ==== Sys2Proof/Safety.lean ====
section
/-! DEFINITION. What a safe run is, in the terms the claims use: what a response may hold, what
every state keeps, what a host must not do. -/

namespace Sys2Proof.Machine

/-- The logical bit window `w` carries for a command (30_encoding.md R64). -/
def windowBit (sys unit : Code) (state : Bool) (w : Nat) : Bool :=
  if w < 5 then sys.getLsbD w
  else if w < 10 then unit.getLsbD (w - 5)
  else if w = 11 then state
  else false

/-- A frame that carries a command: each window the pattern of its bit, and the footer
(30_encoding.md R63, R64). -/
def frameCarries (c : Config) (f : Frame) (sys unit : Code) (state : Bool) : Prop :=
  (∀ w, w < 12 → window f w = if windowBit sys unit state w then highPattern c else lowPattern c) ∧
    f[48] = shortSlot c ∧ f[49] = footerSlot c

/-- What a response may hold (10_state.md R24, R25, R28; 43_message.md R171; 60_exceptions.md R201
to R205). -/
structure Response.Ok (c : Config) (r : Response) : Prop where
  cmdValid_iff : r.cmdValid = true ↔ r.status = .ok
  frameValid_iff : r.frameValid = true ↔ r.op = .encode ∧ r.status = .ok
  no_command : r.cmdValid = false → r.systemcode = 0#5 ∧ r.unitcode = 0#5 ∧ r.state = false
  no_frame : r.frameValid = false → r.frame = blankFrame
  frame : r.frameValid = true → frameCarries c r.frame r.systemcode r.unitcode r.state
  field_iff : r.field = none ↔ r.status ≠ .missingField ∧ r.status ≠ .outOfRange
  range_field : r.status = .outOfRange → r.field ≠ some .state
  validation_op : r.status = .missingField ∨ r.status = .outOfRange → r.op = .validate ∨ r.op = .encode
  suppressed_op : r.status = .suppressed → r.op = .decode
  illegal_iff : r.status = .illegalOp ↔ r.op = .reserved3
  decoded_unit : r.op = .decode → r.status = .ok → r.unitcode ≠ 0#5

/-- What a diagnostic record may hold: a range failure names an address field (10_state.md R26,
60_exceptions.md R203). -/
def Diag.Ok (d : Diag) : Prop := d.kind = .outOfRange → d.field ≠ .state

/-- What a reading may hold. -/
def Reading.Ok (c : Config) : Reading → Prop
  | .response r => r.Ok c
  | .metadata m => m = Sys2Proof.Machine.metadata c

/-- What every step keeps: the response held, and all the host and the logger have been given, are
such as the spec allows. -/
structure State.Inv (s : State) : Prop where
  pending : ∀ r, s.pending = some r → r.Ok s.config
  taken : ∀ r, r ∈ s.taken → r.Ok s.config
  readings : ∀ x, x ∈ s.readings → x.Ok s.config
  diag : ∀ d, d ∈ s.diag → d.Ok

/-- The host's next action is no read of response fields that carry no value
(70_reset_and_hazards.md R253). -/
def State.ReadSafe (s : State) : Prop := s.script.head? = some .readResponse → s.pending ≠ none

/-- The frame a host may hand to the radio: "only when `FRAME_VALID = 1`"
(70_reset_and_hazards.md R254). -/
def Response.transmittable (r : Response) : Option Frame := if r.frameValid then some r.frame else none

end Sys2Proof.Machine
end

