-- ==== Sys2Proof/Certificates/Slice0/Obligations.lean ====
section
/-! DEFINITION. The statements for the provers. A rule is named in the docstring of the statement
that formalises it. Every statement about an operation also says its frame: `exec` changes only the
response register and the diagnostic output, and the statement names what it leaves in each. -/

open Sys2Proof Sys2Proof.Machine

/-! ### Encoding -/

/-- R60: every field of the request word stands at its bits; bit `i` of `BITS` is `q[6+i]`, and the
raw candidates are the two's-complement numbers of `q[63:32]` and `q[95:64]`. -/
def Obligations.RequestFieldsStandAtTheirBits : Prop :=
  ∀ w : RequestWord,
    (decodeWord w).op.code = w.extractLsb 1 0 ∧
    (decodeWord w).request.sysP = w.getLsbD 2 ∧
    (decodeWord w).request.unitP = w.getLsbD 3 ∧
    (decodeWord w).request.on = w.getLsbD 4 ∧
    (decodeWord w).request.off = w.getLsbD 5 ∧
    (∀ i, i < 12 → (decodeWord w).request.bits.getLsbD i = w.getLsbD (6 + i)) ∧
    (decodeWord w).request.reserved = w.extractLsb 31 18 ∧
    (decodeWord w).request.rawSys.toInt = (w.extractLsb 63 32).toInt ∧
    (decodeWord w).request.rawUnit.toInt = (w.extractLsb 95 64).toInt

/-- R61: every request word is one of exactly one row of the opcode table, and that row's operation
is the one decoded, 0 to 3 being VALIDATE, ENCODE, DECODE and the reserved one. -/
def Obligations.EveryWordSelectsExactlyOneOperation : Prop :=
  ∀ w : RequestWord,
    (∃ row, opcodeTable.filter (fun r => r.covers w) = [row] ∧ row.op = (decodeWord w).op) ∧
    (w.toNat % 4 = 0 → decodeWord w = .validate (decodeWord w).request) ∧
    (w.toNat % 4 = 1 → decodeWord w = .encode (decodeWord w).request) ∧
    (w.toNat % 4 = 2 → decodeWord w = .decode (decodeWord w).request) ∧
    (w.toNat % 4 = 3 → decodeWord w = .reserved3 (decodeWord w).request)

/-- Decoding a packed operation gives it back, with every field at every value, and packing a
decoded word gives the word back: no bit of a request is dropped (R60). -/
def Obligations.RequestRoundTrip : Prop :=
  (∀ i : Instr, decodeWord (encode i) = i) ∧ (∀ w : RequestWord, encode (decodeWord w) = w)

/-- R45: byte `k` of a packed request, of a packed status word and of a frame slot is bits
`8k+7 : 8k`, and the bytes of a whole packed response are those of its 51 words in order: 204 bytes,
byte `4j+k` being byte `k` of word `j`. -/
def Obligations.PackedBytesAreLittleEndian : Prop :=
  (∀ (w : RequestWord) (k : Nat), k < 12 →
    (requestBytes w)[k]? = some (BitVec.ofNat 8 (w.toNat / 256 ^ k))) ∧
  (∀ (w : Word) (k : Nat), k < 4 →
    (wordBytes w)[k]? = some (BitVec.ofNat 8 (w.toNat / 256 ^ k))) ∧
  (∀ r : Response, r.bytes.length = 204 ∧
    ∀ (j k : Nat) (w : Word), r.words[j]? = some w → k < 4 →
      r.bytes[4 * j + k]? = some (BitVec.ofNat 8 (w.toNat / 256 ^ k)))

/-- The twelve bytes of a request word decode to the request of the word, and those of a packed
operation to the operation. That bytes after the twelfth are left for the next request is the
model's choice (notes/assumptions/8.md). -/
def Obligations.BytesAfterARequestAreLeft : Prop :=
  (∀ (w : RequestWord) (rest : List Byte),
    decodeBytes (requestBytes w ++ rest) = .ok (decodeWord w, rest)) ∧
  (∀ (i : Instr) (rest : List Byte), decodeBytes (encodeBytes i ++ rest) = .ok (i, rest))

/-- Words written out in 95_test_vectors.md decode to the requests written beside them: V8, E4, X1
and R1. Fewer bytes than the one request length (R60) are refused by name, which is the model's own
(notes/assumptions/8.md). -/
def Obligations.WrittenWordsDecodeToTheirRequests : Prop :=
  decodeTableWord 96 0xfffffff9000000000000002c =
    some (.validate ⟨true, true, false, true, 0#12, 0#14, 0#32, BitVec.ofInt 32 (-7)⟩) ∧
  decodeTableWord 96 0x00000010000000010000002d =
    some (.encode ⟨true, true, false, true, 0#12, 0#14, 1#32, 16#32⟩) ∧
  decodeTableWord 96 0x000000000000000000005142 =
    some (.decode ⟨false, false, false, false, 0b000101000101#12, 0#14, 0#32, 0#32⟩) ∧
  decodeTableWord 96 0x000000000000000000000003 =
    some (.reserved3 ⟨false, false, false, false, 0#12, 0#14, 0#32, 0#32⟩) ∧
  (∀ bs : List Byte, bs.length < 12 → decodeBytes bs = .error .truncatedRequest)

/-- Lines of the text syntax (R73) read as the request words 95_test_vectors.md writes beside them
(V6, V18, E4, X5, R1), the integers at both ends of the range among them, and the integer next to
either end, which 32 bits cannot hold, is refused (93_implementation_defined.md I15). The name of the
refusal is the model's choice (notes/assumptions/12.md). -/
def Obligations.RequestLinesReadAsTheirWords : Prop :=
  readRequest "VALIDATE systemcode=-2147483648 unitcode=5 on".toList =
    .ok (decodeWord 0x00000005800000000000001c#96) ∧
  readRequest "VALIDATE systemcode=2147483647 unitcode=3 off".toList =
    .ok (decodeWord 0x000000037fffffff0000002c#96) ∧
  readRequest "ENCODE systemcode=1 unitcode=16 off".toList =
    .ok (decodeWord 0x00000010000000010000002d#96) ∧
  readRequest "DECODE bits=000001000010".toList =
    .ok (decodeWord 0x000000000000000000010802#96) ∧
  readRequest "RESERVED3".toList = .ok (decodeWord 0x000000000000000000000003#96) ∧
  readRequest "VALIDATE systemcode=2147483648 unitcode=5 on".toList = .error .notRepresentable ∧
  readRequest "VALIDATE systemcode=-2147483649 unitcode=5 on".toList = .error .notRepresentable

/-- R73's `<int>`, "a decimal integer with optional leading `-`, in `-2^31 .. 2^31-1`", and
93_implementation_defined.md I15: a digit alone is its value, a digit after a number is ten times the
number and the digit, nothing else is a number, a leading `-` negates, and a raw candidate is read exactly when the integer is
in the range, as the 32 bits whose two's-complement value is the integer. A word that is neither a
number nor `-` before a number is no integer. That leading zeros are read, as the digit clauses make
them be, and the names of the refusals are the model's choice (notes/assumptions/12.md). -/
def Obligations.RawCandidatesAreReadWithinTheirRange : Prop :=
  (∀ d, d < 10 → readNat [Char.ofNat (48 + d)] = some d) ∧
  (∀ (ds : List Char) (n d : Nat), readNat ds = some n → d < 10 →
    readNat (ds ++ [Char.ofNat (48 + d)]) = some (10 * n + d)) ∧
  readNat [] = none ∧
  (∀ ds : List Char, (∃ c ∈ ds, c.toNat < 48 ∨ 57 < c.toNat) → readNat ds = none) ∧
  (∀ (ds : List Char) (n : Nat), readNat ds = some n →
    readInt ds = some (n : Int) ∧ readInt ('-' :: ds) = some (-(n : Int))) ∧
  (∀ w : List Char, readNat w = none → (∀ ds, w = '-' :: ds → readNat ds = none) →
    readInt w = none) ∧
  (∀ (w : List Char) (v : Int), readInt w = some v → -(2 ^ 31) ≤ v → v ≤ 2 ^ 31 - 1 →
    ∃ n : RawCode, readRaw w = .ok n ∧ n.toInt = v) ∧
  (∀ (w : List Char) (v : Int), readInt w = some v → v < -(2 ^ 31) ∨ 2 ^ 31 - 1 < v →
    readRaw w = .error .notRepresentable) ∧
  (∀ w : List Char, readInt w = none → readRaw w = .error .malformedOperand)

/-- R70: every field of the packed status word stands at its bits, `s[31:20]` is 0, and the word is
followed by the 50 slots in order. `STATUS` and `FIELD` hold the codes of the two tables of
10_state.md R25 and `OP` those of R61, each code for its one name. -/
def Obligations.StatusWordFieldsStandAtTheirBits : Prop :=
  ∀ r : Response,
    r.statusWord.extractLsb 2 0 = r.status.code ∧
    r.statusWord.extractLsb 4 3 = fieldCode r.field ∧
    r.statusWord.getLsbD 5 = r.frameValid ∧
    r.statusWord.getLsbD 6 = r.cmdValid ∧
    r.statusWord.getLsbD 7 = r.state ∧
    r.statusWord.extractLsb 12 8 = r.systemcode ∧
    r.statusWord.extractLsb 17 13 = r.unitcode ∧
    r.statusWord.extractLsb 19 18 = r.op.code ∧
    r.statusWord.extractLsb 31 20 = 0#12 ∧
    (r.statusWord.extractLsb 2 0 = 0#3 ↔ r.status = .ok) ∧
    (r.statusWord.extractLsb 2 0 = 1#3 ↔ r.status = .missingField) ∧
    (r.statusWord.extractLsb 2 0 = 2#3 ↔ r.status = .outOfRange) ∧
    (r.statusWord.extractLsb 2 0 = 3#3 ↔ r.status = .suppressed) ∧
    (r.statusWord.extractLsb 2 0 = 4#3 ↔ r.status = .illegalOp) ∧
    (r.statusWord.extractLsb 4 3 = 0#2 ↔ r.field = some .systemcode) ∧
    (r.statusWord.extractLsb 4 3 = 1#2 ↔ r.field = some .unitcode) ∧
    (r.statusWord.extractLsb 4 3 = 2#2 ↔ r.field = some .state) ∧
    (r.statusWord.extractLsb 4 3 = 3#2 ↔ r.field = none) ∧
    (r.statusWord.extractLsb 19 18 = 0#2 ↔ r.op = .validate) ∧
    (r.statusWord.extractLsb 19 18 = 1#2 ↔ r.op = .encode) ∧
    (r.statusWord.extractLsb 19 18 = 2#2 ↔ r.op = .decode) ∧
    (r.statusWord.extractLsb 19 18 = 3#2 ↔ r.op = .reserved3) ∧
    r.words.length = 51 ∧ r.words[0]? = some r.statusWord ∧
    ∀ (i : Nat) (h : i < 50), r.words[i + 1]? = some r.frame[i]

/-- R66 and R67: `toBits` lists the bits least significant first, and `fromBits` is the weighted sum
of the elements, `bits[lo]` with weight 1, below 32 for five elements. -/
def Obligations.BitExpansionsAreLeastSignificantFirst : Prop :=
  (∀ n : Code, toBits n = [n.getLsbD 0, n.getLsbD 1, n.getLsbD 2, n.getLsbD 3, n.getLsbD 4]) ∧
  (∀ (bits : BitVector) (lo hi : Nat),
    fromBits bits lo hi = ∑ i ∈ Finset.Icc lo hi, (bits.getLsbD i).toNat * 2 ^ (i - lo)) ∧
  (∀ (bits : BitVector) (lo : Nat), fromBits bits lo (lo + 4) < 32)

/-! ### The validator -/

/-- R101 to R104 and R106: for VALIDATE and ENCODE, in every state, the first failure that applies,
in the order missing systemcode, unitcode, state, then systemcode and unitcode out of range, is the
one reported, as an error response that carries nothing else, with exactly one diagnostic record of
the same field and class; where none applies the operation succeeds and records nothing, unitcode 0
included. -/
def Obligations.FirstValidationFailureIsReported : Prop :=
  ∀ (q : Request) (s : State) (i : Instr),
    i = .validate q ∨ i = .encode q →
    let fails := fun (f : CommandField) (status : Status) (k : DiagClass) =>
      exec i s = .next { s with
        pending := some ⟨i.op, status, some f, false, 0#5, 0#5, false, false, Vector.replicate 50 0#32⟩
        diag := s.diag ++ [⟨.error, f, k⟩] }
    let present := q.sysP = true ∧ q.unitP = true ∧ q.on ≠ q.off
    let inRange := fun v : Int => 0 ≤ v ∧ v ≤ 31
    (q.sysP = false → fails .systemcode .missingField .missing) ∧
    (q.sysP = true → q.unitP = false → fails .unitcode .missingField .missing) ∧
    (q.sysP = true → q.unitP = true → q.on = q.off → fails .state .missingField .missing) ∧
    (present → ¬ inRange q.rawSys.toInt → fails .systemcode .outOfRange .outOfRange) ∧
    (present → inRange q.rawSys.toInt → ¬ inRange q.rawUnit.toInt →
      fails .unitcode .outOfRange .outOfRange) ∧
    (present → inRange q.rawSys.toInt → inRange q.rawUnit.toInt →
      ∃ r : Response, r.status = .ok ∧ exec i s = .next { s with pending := some r })

/-- R105: VALIDATE of operands that are present and in range answers the command, whose codes are
the low five bits of the raw candidates and their values, On exactly when `ON = 1`, with no frame and
no diagnostic. -/
def Obligations.ValidateAnswersTheCommand : Prop :=
  ∀ (q : Request) (s : State),
    q.sysP = true → q.unitP = true → q.on ≠ q.off →
    0 ≤ q.rawSys.toInt → q.rawSys.toInt ≤ 31 → 0 ≤ q.rawUnit.toInt → q.rawUnit.toInt ≤ 31 →
    exec (.validate q) s = .next { s with
      pending := some ⟨.validate, .ok, none, true, q.rawSys.extractLsb 4 0, q.rawUnit.extractLsb 4 0,
        q.on, false, Vector.replicate 50 0#32⟩ } ∧
    ((q.rawSys.extractLsb 4 0).toNat : Int) = q.rawSys.toInt ∧
    ((q.rawUnit.extractLsb 4 0).toNat : Int) = q.rawUnit.toInt

/-! ### The pulse encoder -/

/-- ENCODE of operands that are present and in range answers the command and the frame whose slots
are the closed form of 41_encoder.md R127 (which the spec marks as derived), in plain numbers: no
slot wraps. Nothing is recorded. -/
def Obligations.EncodeAnswersTheClosedFormFrame : Prop :=
  ∀ (q : Request) (s : State),
    q.sysP = true → q.unitP = true → q.on ≠ q.off →
    0 ≤ q.rawSys.toInt → q.rawSys.toInt ≤ 31 → 0 ≤ q.rawUnit.toInt → q.rawUnit.toInt ≤ 31 →
    let plslen := s.config.params.plslen
    let bit := fun w : Nat =>
      if w ≤ 4 then q.rawSys.getLsbD w
      else if w ≤ 9 then q.rawUnit.getLsbD (w - 5)
      else if w = 10 then false
      else q.on
    ∃ f : Frame,
      exec (.encode q) s = .next { s with
        pending := some ⟨.encode, .ok, none, true, q.rawSys.extractLsb 4 0, q.rawUnit.extractLsb 4 0,
          q.on, true, f⟩ } ∧
      (∀ (i : Nat) (_ : i < 48), f[i].toNat =
        if i % 4 = 0 then plslen
        else if i % 4 = 1 then 3 * plslen
        else if i % 4 = 2 then (if bit (i / 4) then plslen else 3 * plslen)
        else (if bit (i / 4) then 3 * plslen else plslen)) ∧
      f[48].toNat = plslen ∧ f[49].toNat = s.config.params.pulseDiv * plslen

/-- R122 to R125 with the layout of R64: the five systemcode windows, the five unitcode windows from
slot 20 and the state window hold `HIGH` where the bit is 1 and `LOW` where it is 0, window 10 is
`LOW`, and slots 48 and 49 are `S` and `PULSE_DIV × PLSLEN`, for every configuration and command. -/
def Obligations.EncodedWindowsFollowTheCommand : Prop :=
  ∀ (cfg : Config) (c : Command),
    let f := buildFrame cfg c
    let S := BitVec.ofNat 32 cfg.params.plslen
    let L := BitVec.ofNat 32 (3 * cfg.params.plslen)
    let pattern := fun b : Bool => if b then [S, L, S, L] else [S, L, L, S]
    let slots := fun lo : Nat =>
      [f.toList[lo]?, f.toList[lo + 1]?, f.toList[lo + 2]?, f.toList[lo + 3]?]
    f.toList.length = 50 ∧
    (∀ i, i < 5 → slots (4 * i) = (pattern (c.sys.getLsbD i)).map some) ∧
    (∀ i, i < 5 → slots (20 + 4 * i) = (pattern (c.unit.getLsbD i)).map some) ∧
    slots 40 = (pattern false).map some ∧
    slots 44 = (pattern (c.state == .on)).map some ∧
    f[48] = S ∧ f[48].toNat = cfg.params.plslen ∧
    f[49].toNat = cfg.params.pulseDiv * cfg.params.plslen

/-- R126, and R121's "whatever it leaves in slots 48..49 is overwritten": the three field writes
commute with each other on every frame, and whatever frame the fill starts from, the built frame is
the same. -/
def Obligations.FieldWritesAreIndependent : Prop :=
  ∀ (cfg : Config) (c : Command) (f : Frame),
    writeField cfg sysOffset c.sys (writeField cfg unitOffset c.unit f) =
      writeField cfg unitOffset c.unit (writeField cfg sysOffset c.sys f) ∧
    writeField cfg sysOffset c.sys (writeState cfg c.state f) =
      writeState cfg c.state (writeField cfg sysOffset c.sys f) ∧
    writeField cfg unitOffset c.unit (writeState cfg c.state f) =
      writeState cfg c.state (writeField cfg unitOffset c.unit f) ∧
    writeFooter cfg (writeState cfg c.state (writeField cfg unitOffset c.unit
      (writeField cfg sysOffset c.sys (fillLow cfg f)))) = buildFrame cfg c

/-- Law L-DUR of 95_test_vectors.md (41_encoder.md R128, marked as derived): every window lasts
`8 × PLSLEN` and every frame `(97 + PULSE_DIV) × PLSLEN`, whatever the command. -/
def Obligations.EveryFrameLastsTheSame : Prop :=
  ∀ (cfg : Config) (c : Command),
    (∀ w, w < 12 →
      ((window (buildFrame cfg c) w).map BitVec.toNat).sum = 8 * cfg.params.plslen) ∧
    duration (buildFrame cfg c) = (97 + cfg.params.pulseDiv) * cfg.params.plslen

/-- Law L-INJ of 95_test_vectors.md: two commands with one frame are one command. -/
def Obligations.FramesTellCommandsApart : Prop :=
  ∀ (cfg : Config) (c d : Command), buildFrame cfg c = buildFrame cfg d → c = d

/-! ### The bit decoder -/

/-- R151 to R153: DECODE of a vector whose unitcode is not 0 answers the command of its weighted
elements, On exactly when element 11 is 0, with no frame and no diagnostic. -/
def Obligations.DecodeAnswersTheCommandOfTheVector : Prop :=
  ∀ (q : Request) (s : State),
    let b := fun i => (q.bits.getLsbD i).toNat
    q.bits.extractLsb 9 5 ≠ 0#5 →
    ∃ sys unit : Code,
      sys.toNat = b 0 + 2 * b 1 + 4 * b 2 + 8 * b 3 + 16 * b 4 ∧
      unit.toNat = b 5 + 2 * b 6 + 4 * b 7 + 8 * b 8 + 16 * b 9 ∧
      exec (.decode q) s = .next { s with
        pending := some ⟨.decode, .ok, none, true, sys, unit, q.bits.getLsbD 11 == false, false,
          Vector.replicate 50 0#32⟩ }

/-- R154 and R204: DECODE of a vector whose elements 5 to 9 are all 0 answers `SUPPRESSED`
(`STATUS = 3`, `FIELD = 3`) with no command and no frame, whatever the other elements, and records
nothing. -/
def Obligations.UnitZeroIsSuppressedSilently : Prop :=
  ∀ (q : Request) (s : State),
    (∀ i, 5 ≤ i → i ≤ 9 → q.bits.getLsbD i = false) →
    exec (.decode q) s = .next { s with
      pending := some ⟨.decode, .suppressed, none, false, 0#5, 0#5, false, false,
        Vector.replicate 50 0#32⟩ } ∧
    Status.code .suppressed = 3#3 ∧ fieldCode none = 3#2

/-- Law L-COUNT of 95_test_vectors.md, with 42_decoder.md R155 from which the spec derives it: the
vectors suppressed are exactly those whose elements 5 to 9 are all 0; they are 128 of the 4096, and the
other 3968 decode to a command; element 10 makes no difference (the spec's decision D14). -/
def Obligations.SuppressedVectorsAreCounted : Prop :=
  (∀ bits : BitVector,
    decodeBits bits = none ↔ ∀ i, 5 ≤ i → i ≤ 9 → bits.getLsbD i = false) ∧
  (List.range 4096).countP (fun n => (decodeBits (BitVec.ofNat 12 n)).isNone) = 128 ∧
  (List.range 4096).countP (fun n => (decodeBits (BitVec.ofNat 12 n)).isSome) = 3968 ∧
  ∀ bits : BitVector, decodeBits (bits ^^^ (1#12 <<< 10)) = decodeBits bits

/-- Law L-RT of 95_test_vectors.md (70_reset_and_hazards.md R255 and R257): DECODE of the
thresholded frame of a command gives its systemcode and unitcode back with the state inverted, and
is suppressed where the unitcode is 0. The whole round trip runs through `exec`: the frame is the
one ENCODE answers with in state `s`, and DECODE runs in any state `u`. -/
def Obligations.RoundTripInvertsTheState : Prop :=
  ∀ (q p : Request) (s u : State),
    q.sysP = true → q.unitP = true → q.on ≠ q.off →
    0 ≤ q.rawSys.toInt → q.rawSys.toInt ≤ 31 → 0 ≤ q.rawUnit.toInt → q.rawUnit.toInt ≤ 31 →
    ∃ (r : Response) (t : State), exec (.encode q) s = .next t ∧ t.pending = some r ∧
      r.transmittable = some r.frame ∧
      (q.rawUnit ≠ 0#32 →
        exec (.decode { p with bits := threshold s.config r.frame }) u = .next { u with
          pending := some ⟨.decode, .ok, none, true, q.rawSys.extractLsb 4 0,
            q.rawUnit.extractLsb 4 0, !q.on, false, Vector.replicate 50 0#32⟩ }) ∧
      (q.rawUnit = 0#32 →
        exec (.decode { p with bits := threshold s.config r.frame }) u = .next { u with
          pending := some ⟨.decode, .suppressed, none, false, 0#5, 0#5, false, false,
            Vector.replicate 50 0#32⟩ })

/-! ### The reserved operation, errors, responses -/

/-- R205: the reserved operation answers `errorResponse(3, 4, 3)`, status word `0x000c001c`, in
every state and with every operand, and records nothing. -/
def Obligations.ReservedOperationAnswersIllegalOp : Prop :=
  ∀ (q : Request) (s : State), ∃ r : Response,
    exec (.reserved3 q) s = .next { s with pending := some r } ∧
    r = ⟨.reserved3, .illegalOp, none, false, 0#5, 0#5, false, false, Vector.replicate 50 0#32⟩ ∧
    r.statusWord = 0x000c001c#32

/-- R201 and R207: raising any exception in any operation completes the transaction with the error response
(no command, no frame, all 50 slots 0) and does nothing else but record the exception's diagnostic,
one record for a validation failure and none for the others. -/
def Obligations.RaisingCompletesWithTheErrorResponse : Prop :=
  ∀ (op : Op) (c : Cause) (s : State), ∃ r : Response,
    raise op c s = { s with pending := some r, diag := s.diag ++ c.diag } ∧
    r.op = op ∧ r.status = c.status ∧ r.field = c.field ∧
    r.cmdValid = false ∧ r.systemcode = 0#5 ∧ r.unitcode = 0#5 ∧ r.state = false ∧
    r.frameValid = false ∧ (∀ (i : Nat) (h : i < 50), r.frame[i] = 0#32) ∧
    (∀ f, c = .missingField f → c.diag = [⟨.error, f, .missing⟩]) ∧
    (∀ f, c = .outOfRange f → c.diag = [⟨.error, f, .outOfRange⟩]) ∧
    (c = .suppressedDecode ∨ c = .illegalOp → c.diag = [])

/-- R24: every operation, in every state, answers one response that copies its `OP`, names a field
exactly for a validation failure, carries a command exactly when `STATUS = OK` and a frame exactly when moreover `OP = ENCODE`, and holds 0 in
the fields that carry nothing. Nothing but the response register and the diagnostic output
changes. -/
def Obligations.EveryOperationAnswersOneResponse : Prop :=
  ∀ (i : Instr) (s : State), ∃ (r : Response) (ds : List Diag),
    exec i s = .next { s with pending := some r, diag := s.diag ++ ds } ∧
    ds.length ≤ 1 ∧ r.op = i.op ∧
    (r.field ≠ none ↔ r.status = .missingField ∨ r.status = .outOfRange) ∧
    (r.cmdValid = true ↔ r.status = .ok) ∧
    (r.cmdValid = false → r.systemcode = 0#5 ∧ r.unitcode = 0#5 ∧ r.state = false) ∧
    (r.frameValid = true ↔ i.op = .encode ∧ r.status = .ok) ∧
    (r.frameValid = false → ∀ (k : Nat) (h : k < 50), r.frame[k] = 0#32)

/-- R62 and R72: VALIDATE and ENCODE read only the presence bits, the indicators and the raw
candidates that are present; DECODE reads only `BITS`; the reserved operation reads nothing. -/
def Obligations.OperationsReadOnlyTheirOperands : Prop :=
  ∀ (q p : Request) (s : State),
    ((q.sysP = p.sysP ∧ q.unitP = p.unitP ∧ q.on = p.on ∧ q.off = p.off ∧
        (q.sysP = true → q.rawSys = p.rawSys) ∧ (q.unitP = true → q.rawUnit = p.rawUnit)) →
      exec (.validate q) s = exec (.validate p) s ∧ exec (.encode q) s = exec (.encode p) s) ∧
    (q.bits = p.bits → exec (.decode q) s = exec (.decode p) s) ∧
    exec (.reserved3 q) s = exec (.reserved3 p) s

/-- Law L-DET of 95_test_vectors.md (10_state.md R30, 20_memory.md R47): the response and the
diagnostics of an operation depend on the operation and the configuration alone, not on what the
engine held or had recorded. -/
def Obligations.HistoryDoesNotInfluenceResponses : Prop :=
  ∀ (i : Instr) (s u : State), s.config = u.config →
    ∃ (r : Response) (ds : List Diag),
      exec i s = .next { s with pending := some r, diag := s.diag ++ ds } ∧
      exec i u = .next { u with pending := some r, diag := u.diag ++ ds }

/-! ### The steps and the ports -/

/-- ACCEPT (10_state.md R31). Where no response is pending and a request is offered, the engine's
turn runs the operation the offered word decodes to. The model's own conventions stand around it:
the offer is used up (notes/assumptions/4.md), and the engine has the turn when the script says so,
when the script is empty, and while the host waits in a TAKE (notes/assumptions/3.md, 5.md). The last
clause is the model's choice too: `withFetchWord` stands for a host that offers the word, and empties
the response register and gives the engine the turn (notes/assumptions/11.md); a table word of fewer
than 96 bits is the request filled up with zeros (notes/assumptions/8.md). -/
def Obligations.StepRunsTheOfferedRequest : Prop :=
  (∀ (s : State) (w : RequestWord), s.pending = none → s.offered = some w →
    (∀ rest, s.script = .engine :: rest →
      step s = exec (decodeWord w) { s with offered := none, script := rest }) ∧
    (s.script = [] → step s = exec (decodeWord w) { s with offered := none }) ∧
    (∀ rest, s.script = .take :: rest → step s = exec (decodeWord w) { s with offered := none })) ∧
  (∀ (s : State) (n w : Nat) (i : Instr), decodeTableWord n w = some i →
    step (s.withFetchWord n w) = exec i { s with pending := none, offered := none })

/-- 60_exceptions.md section 3 (R209): the step that accepts a request yields its response, whatever
the request, and the response answers that request's operation. The model's choices are that the offer
is used up (notes/assumptions/4.md) and the three ways the engine gets the turn: the script says so, the
script is empty, the host waits in a TAKE, which stays the next action (3.md, 5.md). -/
def Obligations.EveryAcceptedRequestIsAnsweredAtOnce : Prop :=
  ∀ (s : State) (w : RequestWord) (left : List Action),
    s.pending = none → s.offered = some w →
    (s.script = .engine :: left ∨ (s.script = [] ∧ left = []) ∨
      ∃ rest, s.script = .take :: rest ∧ left = .take :: rest) →
    ∃ (t : State) (r : Response), step s = .next t ∧ t.pending = some r ∧
      r.op = (decodeWord w).op ∧ t.offered = none ∧ t.script = left ∧ t.taken = s.taken ∧
      t.readings = s.readings ∧ t.config = s.config

/-- 60_exceptions.md section 3 (R208): after an error response is taken, the next request is accepted
as after any other TAKE. The model's choices stand around it: how the engine gets the turn after the
TAKE, by the script, by an empty script or in a further TAKE that waits (notes/assumptions/3.md, 5.md),
ACCEPT uses the offer up (4.md), and what the host has taken is a list (6.md). -/
def Obligations.AfterAnErrorTheNextRequestIsAccepted : Prop :=
  ∀ (s : State) (op : Op) (c : Cause) (w : RequestWord) (left : List Action),
    s.pending = some (errorResponse op c.status c.field) → s.offered = some w →
    (s.script = .take :: .engine :: left ∨ (s.script = [.take] ∧ left = []) ∨
      ∃ rest, s.script = .take :: .take :: rest ∧ left = .take :: rest) →
    ∃ t, step s = .next t ∧ t.pending = none ∧
      step t = exec (decodeWord w) { s with
        pending := none
        offered := none
        script := left
        taken := s.taken ++ [errorResponse op c.status c.field] }

/-- The host's side of the request port (10_state.md R31, 70_reset_and_hazards.md R251). An offer puts
the whole word on the port in place of whatever was offered, and stopping to offer empties the port;
nothing else changes. When a request was replaced before it was accepted, the engine's turn runs the
new request only: "no mixture of two requests is ever executed"; when it was withdrawn, the engine
accepts nothing. Offers, withdrawals and turns as actions of a script are the model's choice
(notes/assumptions/3.md), and so are withdrawing and the using up of the offer (4.md). -/
def Obligations.OffersReplaceEachOtherWhole : Prop :=
  ∀ (s : State) (rest : List Action),
    (∀ w, s.script = .offer w :: rest →
      step s = .next { s with offered := some w, script := rest }) ∧
    (s.script = .withdraw :: rest → step s = .next { s with offered := none, script := rest }) ∧
    (∀ v w, s.pending = none → s.script = .offer v :: .offer w :: .engine :: rest →
      ∃ t u, step s = .next t ∧ step t = .next u ∧
        step u = exec (decodeWord w) { s with offered := none, script := rest }) ∧
    (∀ w, s.pending = none → s.script = .offer w :: .engine :: rest →
      ∃ t, step s = .next t ∧
        step t = exec (decodeWord w) { s with offered := none, script := rest }) ∧
    (s.script = .withdraw :: .engine :: rest →
      ∃ t, step s = .next t ∧ step t = .next { s with offered := none, script := rest })

/-- 70_reset_and_hazards.md section 3 (R252), with R173's "delivered once": from a state in which a
response is pending, the next state still holds that response, or the host has taken it, once, and the
register is empty, or a reset has discarded it. No request is accepted: the offer stands unless the host changes it. The list of what
the host has taken is the model's choice (notes/assumptions/6.md), and that the offer stands through a
reset too is DEDUCED (notes/assumptions/7.md). -/
def Obligations.NoResponseIsOverwrittenUnread : Prop :=
  ∀ (s t : State) (r : Response), s.pending = some r → step s = .next t →
    ((t.pending = some r ∧ t.taken = s.taken) ∨
      (s.script.head? = some .take ∧ t.pending = none ∧ t.taken = s.taken ++ [r]) ∨
      (s.script.head? = some .reset ∧ t.pending = none ∧ t.taken = s.taken)) ∧
    ((∀ w, s.script.head? ≠ some (.offer w)) → s.script.head? ≠ some .withdraw →
      t.offered = s.offered)

/-- TAKE (10_state.md R31): with a response pending the host receives it and the register is empty,
and nothing else changes; this is so after an error response as after any other (60_exceptions.md
R208). That the response goes to the end of a list of taken responses is the model's own form
(notes/assumptions/6.md). -/
def Obligations.TakeHandsOverThePendingResponse : Prop :=
  ∀ (s : State) (r : Response) (rest : List Action),
    s.pending = some r → s.script = .take :: rest →
    step s = .next { s with pending := none, taken := s.taken ++ [r], script := rest }

/-- 70_reset_and_hazards.md section 1 (R240): reset empties the response register, discards what was
pending without delivering it, accepts no request, keeps the diagnostic records and appends none;
after it a read of the response fields faults. That the offered request itself and the host's lists
are left as they are is DEDUCED (notes/assumptions/7.md); reset and read are actions of the model's
script (notes/assumptions/3.md), and that the fault ends the run is DEDUCED (notes/assumptions/16.md). -/
def Obligations.ResetDiscardsThePendingResponse : Prop :=
  ∀ (s : State) (rest : List Action), s.script = .reset :: rest →
    ∃ t, step s = .next t ∧
      t = { s with pending := none, script := rest } ∧
      step { t with script := .readResponse :: rest } = .fault .readWithoutResponse

/-- 10_state.md section 7 (R32): right after reset, whatever the configuration, no response is pending,
a read of the response fields faults, and the metadata outputs hold their constants. R32 says that
reset appends no record; that the diagnostic output is then empty is the model's choice for a machine
to which nothing has happened yet (notes/assumptions/7.md), and so is it that `State.reset` is the
engine built with the default `PLSLEN` of 312 (notes/assumptions/1.md). The fault is the stop of
notes/assumptions/16.md. -/
def Obligations.ResetLeavesTheEngineIdle : Prop :=
  (∀ c : Config,
    (State.resetWith c).pending = none ∧ (State.resetWith c).diag = [] ∧
    (State.resetWith c).config = c ∧
    step { State.resetWith c with script := [.readResponse] } = .fault .readWithoutResponse ∧
    metadata (State.resetWith c).config =
      ⟨c.params.protocolId, c.params.deviceClass, c.params.hwClass, c.params.plslen, 3,
        c.params.pulseDiv, 50, 12, 31⟩) ∧
  ∃ c, State.reset = State.resetWith c ∧ c.params.plslen = 312

/-- 70_reset_and_hazards.md section 3 (R253) and 20_memory.md section 3 (R47): the only step that stops
is a read of the response fields while no response is pending, with the fault that says so; no step is
refused, and every other step answers a next state. A read with a response pending, and a read of the
metadata, change nothing but what the host has read. That the fault ends the run is DEDUCED
(notes/assumptions/16.md); that a step with nothing enabled still answers a state (5.md) and the list
of readings (6.md) are the model's choices. -/
def Obligations.OnlyAReadWithoutResponseStops : Prop :=
  ∀ s : State,
    (∀ f, step s = .fault f ↔
      f = .readWithoutResponse ∧ s.script.head? = some .readResponse ∧ s.pending = none) ∧
    (∀ f, step s ≠ .refused f) ∧
    (s.ReadSafe → ∃ t, step s = .next t) ∧
    (∀ r rest, s.pending = some r → s.script = .readResponse :: rest →
      step s = .next { s with script := rest, readings := s.readings ++ [.response r] }) ∧
    (∀ rest, s.script = .readMetadata :: rest →
      step s = .next { s with
        script := rest, readings := s.readings ++ [.metadata (metadata s.config)] })

/-- 10_state.md section 4 (R27): the metadata outputs are the constants of the configuration, readable
in every state, and no step changes them. That a read is noted in a list and that the outputs are
numbers without a width are the model's choices (notes/assumptions/6.md, 9.md). -/
def Obligations.MetadataOutputsAreConstant : Prop :=
  ∀ s : State,
    (∀ rest, s.script = .readMetadata :: rest →
      step s = .next { s with
        script := rest
        readings := s.readings ++ [.metadata ⟨s.config.params.protocolId, s.config.params.deviceClass,
          s.config.params.hwClass, s.config.params.plslen, 3, s.config.params.pulseDiv, 50, 12, 31⟩] }) ∧
    (∀ t, step s = .next t → metadata t.config = metadata s.config)

/-- R250: no step, reset included, changes a parameter. -/
def Obligations.ConfigurationIsFixedForLife : Prop :=
  ∀ s t : State, step s = .next t → t.config = s.config

/-- R26: the diagnostic output is append-only; a step that makes the response of a failed VALIDATE
or ENCODE pending appends exactly one record, of the field and class of the failure, and no other
step appends anything. -/
def Obligations.OneDiagnosticPerValidationFailure : Prop :=
  ∀ s t : State, step s = .next t →
    (t.diag = s.diag ∧
      (∀ r, s.pending = none → t.pending = some r →
        r.status ≠ .missingField ∧ r.status ≠ .outOfRange)) ∨
    (∃ (r : Response) (f : CommandField) (k : DiagClass),
      s.pending = none ∧ t.pending = some r ∧ (r.op = .validate ∨ r.op = .encode) ∧
      r.field = some f ∧
      ((k = .missing ∧ r.status = .missingField) ∨ (k = .outOfRange ∧ r.status = .outOfRange)) ∧
      t.diag = s.diag ++ [⟨.error, f, k⟩])

/-- 60_exceptions.md section 5 (R215): an engine with nothing to accept, because no request is offered
or a response is pending, keeps its state: when no action is to come, when the script gives it the
turn, which is then used up, and while the host waits in a TAKE. That such a step is a step, and that a
TAKE waits, are the model's choices (notes/assumptions/5.md), and so is the script (3.md). -/
def Obligations.AnIdleEngineKeepsItsState : Prop :=
  ∀ s : State,
    (s.script = [] → (s.offered = none ∨ s.pending ≠ none) → step s = .next s) ∧
    (∀ rest, s.script = .engine :: rest → (s.offered = none ∨ s.pending ≠ none) →
      step s = .next { s with script := rest }) ∧
    (∀ rest, s.script = .take :: rest → s.pending = none → s.offered = none → step s = .next s)

/-- 70_reset_and_hazards.md section 2 (R243): an engine is built exactly from legal parameters, with any
other the model refuses, and the engine built is idle and has those parameters. That it has no records
is the model's choice for an engine to which nothing has happened yet (notes/assumptions/7.md). -/
def Obligations.OnlyLegalConfigurationsAreBuilt : Prop :=
  ∀ p : Parameters,
    let legal := 1 ≤ p.plslen ∧ 1 ≤ p.pulseDiv ∧ 3 * p.plslen ≤ 2 ^ 32 - 1 ∧
      p.pulseDiv * p.plslen ≤ 2 ^ 32 - 1
    (¬ legal → State.build p = .refused .illegalConfiguration) ∧
    (legal → ∃ s : State, State.build p = .next s ∧ s.config.params = p ∧ s.pending = none ∧
      s.diag = [])

/-- 20_memory.md section 4 (R51): a step of one engine leaves every other engine of the platform and the
shared configuration alone, and is that engine's own step; every engine keeps the one configuration.
That the engines are a list, that one moves at a time, and that its place names it are the model's
choices (notes/assumptions/10.md). -/
def Obligations.EnginesDoNotDisturbEachOther : Prop :=
  ∀ (p : Platform) (k : Nat),
    (∀ s t, p.engines[k]? = some s → step s = .next t →
      ∃ p', Platform.step k p = .next p' ∧ p'.engines[k]? = some t) ∧
    (∀ p', Platform.step k p = .next p' →
      p'.config = p.config ∧ p'.engines.length = p.engines.length ∧
      (∀ j, j ≠ k → p'.engines[j]? = p.engines[j]?) ∧
      (p.uniform = true → p'.uniform = true))

/-! ### The invariant -/

/-- The invariant `State.Inv` holds right after reset, in every configuration. -/
def Obligations.ResetMeetsTheInvariant : Prop :=
  (∀ c : Config, (State.resetWith c).Inv) ∧ State.reset.Inv

/-- Every step keeps `State.Inv`: the pending response, every response the host has taken or read
and every diagnostic record are such as the spec allows (10_state.md R24 to R28, 30_encoding.md R71,
43_message.md R171): a response carries a command exactly when it is OK and a frame exactly when it
is an OK ENCODE, the frame is the one of that very command in the engine's configuration, what is
carried by nothing is 0, a field is named exactly for a validation failure, each status comes from
its own operations, and a decoded command never has unitcode 0. -/
def Obligations.EveryStepKeepsTheInvariant : Prop :=
  ∀ s t : State, s.Inv → step s = .next t → t.Inv
end

