-- ==== Sys2Proof/Laws/Decode.lean ====
section
/-! SUPPORT. The bits of placed fields, the numbers of a bit vector's fields, the lengths of packed
forms. -/

namespace Sys2Proof

/-- The bits of a field placed in a request word. -/
@[simp] theorem getLsbD_place {n : Nat} (lo : Nat) (v : BitVec n) (k : Nat) :
    (place lo v).getLsbD k = (decide (k < 96) && decide (lo ≤ k) && v.getLsbD (k - lo)) := by
  by_cases h : k < 96 <;> by_cases h' : lo ≤ k <;> simp [place, h, h']

@[simp] theorem getElem_place {n : Nat} (lo : Nat) (v : BitVec n) (k : Nat) (h : k < 96) :
    (place lo v)[k] = (decide (lo ≤ k) && v.getLsbD (k - lo)) := by
  rw [← BitVec.getLsbD_eq_getElem, getLsbD_place]
  simp [h]

/-- `q[1:0]` of an operation's code is the operation (30_encoding.md R61). -/
@[simp] theorem Op.ofCode_code (op : Op) : Op.ofCode op.code = op := by cases op <;> rfl

@[simp] theorem Op.code_ofCode (c : BitVec 2) : (Op.ofCode c).code = c := by
  revert c; decide

@[simp] theorem Instr.op_ofOp (op : Op) (q : Request) : (Instr.ofOp op q).op = op := by
  cases op <;> rfl

@[simp] theorem Instr.request_ofOp (op : Op) (q : Request) : (Instr.ofOp op q).request = q := by
  cases op <;> rfl

@[simp] theorem Instr.ofOp_op_request (i : Instr) : Instr.ofOp i.op i.request = i := by
  cases i <;> rfl

namespace Machine

/-- A word is four bytes (20_memory.md R45). -/
@[simp] theorem length_wordBytes (w : Word) : (wordBytes w).length = 4 := rfl

/-- A packed response is 51 words (30_encoding.md R70). -/
@[simp] theorem length_words (r : Response) : r.words.length = 51 := by simp [Response.words]

/-- The weights of a five-bit code (30_encoding.md R67). -/
theorem toNat_code (b : Code) : b.toNat = (b.getLsbD 0).toNat + ((b.getLsbD 1).toNat * 2 +
    ((b.getLsbD 2).toNat * 4 + ((b.getLsbD 3).toNat * 8 + (b.getLsbD 4).toNat * 16))) := by
  revert b; decide

/-- Elements 0 to 4 as a number (42_decoder.md R151). -/
theorem fromBits_sys (bits : BitVector) : fromBits bits 0 4 = (bits.extractLsb 4 0).toNat := by
  rw [toNat_code]
  simp [fromBits, List.range_succ]

/-- Elements 5 to 9 as a number (42_decoder.md R152). -/
theorem fromBits_unit (bits : BitVector) : fromBits bits 5 9 = (bits.extractLsb 9 5).toNat := by
  rw [toNat_code]
  simp [fromBits, List.range_succ]

/-- The command of a vector, or none where its unitcode is 0 (42_decoder.md R151 to R154). -/
theorem decodeBits_cases (bits : BitVector) :
    (bits.extractLsb 9 5 = 0#5 ∧ decodeBits bits = none) ∨
    (bits.extractLsb 9 5 ≠ 0#5 ∧ decodeBits bits = some ⟨bits.extractLsb 4 0, bits.extractLsb 9 5,
      if bits.getLsbD 11 = false then .on else .off⟩) := by
  have zero : (bits.extractLsb 9 5).toNat = 0 ↔ bits.extractLsb 9 5 = 0#5 := by
    rw [← BitVec.toNat_inj]; rfl
  rw [decodeBits, fromBits_sys, fromBits_unit]
  by_cases h : bits.extractLsb 9 5 = 0#5
  · exact .inl ⟨h, if_pos (zero.mpr h)⟩
  · refine .inr ⟨h, (if_neg (mt zero.mp h)).trans ?_⟩
    simp only [BitVec.ofNat_toNat, BitVec.setWidth_eq]

end Machine

end Sys2Proof
end

