-- ==== Sys2Proof/Laws/Frame.lean ====
section
/-! SUPPORT. What one write to the frame under construction does. -/

namespace Sys2Proof.Machine

/-- The slots a pattern does not name keep their value. -/
theorem writeSlots_of_not_mem (idxs : List Nat) (vals : List Slot) (f : Frame) (i : Nat)
    (h : i < 50) (hi : i ∉ idxs) : (writeSlots idxs vals f)[i] = f[i] := by
  induction idxs generalizing vals f with
  | nil => rfl
  | cons k ks ih =>
    cases vals with
    | nil => rfl
    | cons v vs =>
      have hk : k ≠ i := fun e => hi (e ▸ List.mem_cons_self)
      have := ih vs (f.setIfInBounds k v) fun m => hi (List.mem_cons_of_mem k m)
      rw [Vector.getElem_setIfInBounds_ne h hk] at this
      exact this

/-- A window at `lo` holds the four values written to it (30_encoding.md R65). -/
theorem writeSlots_slotWindow (off b : Nat) (v0 v1 v2 v3 : Slot) (f : Frame) (i : Nat) (h : i < 50) :
    (writeSlots (slotWindow off b) [v0, v1, v2, v3] f)[i] =
      if i = off + 4 * b then v0 else if i = off + 4 * b + 1 then v1
      else if i = off + 4 * b + 2 then v2 else if i = off + 4 * b + 3 then v3 else f[i] := by
  simp only [writeSlots, slotWindow, List.zip_cons_cons, List.zip_nil_left, List.foldl_cons,
    List.foldl_nil, Vector.getElem_setIfInBounds]
  split_ifs <;> first | rfl | omega

/-- Slot `k` of the pattern `HIGH` (30_encoding.md R63). -/
def highSlot (c : Config) (k : Nat) : Slot :=
  if k = 0 then shortSlot c else if k = 1 then longSlot c else if k = 2 then shortSlot c else longSlot c

/-- Slot `k` of the pattern `LOW` (30_encoding.md R63). -/
def lowSlot (c : Config) (k : Nat) : Slot :=
  if k = 0 then shortSlot c else if k = 1 then longSlot c else if k = 2 then longSlot c else shortSlot c

/-- A window written, in terms of the window `i / 4` and the place `i % 4` of a slot. -/
theorem writeSlots_window (o b : Nat) (v0 v1 v2 v3 : Slot) (f : Frame) (i : Nat) (h : i < 50) :
    (writeSlots (slotWindow (4 * o) b) [v0, v1, v2, v3] f)[i] =
      if i / 4 = o + b then
        (if i % 4 = 0 then v0 else if i % 4 = 1 then v1 else if i % 4 = 2 then v2 else v3)
      else f[i] := by
  rw [writeSlots_slotWindow]
  by_cases hw : i / 4 = o + b
  · have hi : i = 4 * o + 4 * b + i % 4 := by omega
    have hk : i % 4 < 4 := Nat.mod_lt _ (by decide)
    rw [if_pos hw]
    generalize i % 4 = k at hi hk
    have place (m : Nat) : (i = 4 * o + 4 * b + m) = (k = m) := by simp only [eq_iff_iff]; omega
    have place0 : (i = 4 * o + 4 * b) = (k = 0) := place 0
    simp only [place0, place]
    split_ifs <;> first | rfl | omega
  · rw [if_neg hw, if_neg (by omega), if_neg (by omega), if_neg (by omega), if_neg (by omega)]

theorem writeSlots_high (c : Config) (o b : Nat) (f : Frame) (i : Nat) (h : i < 50) :
    (writeSlots (slotWindow (4 * o) b) (highPattern c) f)[i] =
      if i / 4 = o + b then highSlot c (i % 4) else f[i] := writeSlots_window ..

theorem writeSlots_low (c : Config) (b : Nat) (f : Frame) (i : Nat) (h : i < 50) :
    (writeSlots (slotWindow 0 b) (lowPattern c) f)[i] =
      if i / 4 = b then lowSlot c (i % 4) else f[i] := by
  have := writeSlots_window 0 b (shortSlot c) (longSlot c) (longSlot c) (shortSlot c) f i h
  rwa [Nat.zero_add, Nat.mul_zero] at this

/-- A field write sets the windows of the set bits and nothing else (41_encoder.md R122, R123). -/
theorem writeField_getElem (c : Config) (o : Nat) (n : Code) (f : Frame) (i : Nat) (h : i < 50) :
    (writeField c (4 * o) n f)[i] =
      if o ≤ i / 4 ∧ i / 4 < o + 5 ∧ n.getLsbD (i / 4 - o) = true then highSlot c (i % 4) else f[i] := by
  have one (b : Bool) (k : Nat) (g : Frame) :
      (if b = true then writeSlots (slotWindow (4 * o) k) (highPattern c) g else g)[i] =
        if b = true ∧ i / 4 = o + k then highSlot c (i % 4) else g[i] := by
    cases b <;> simp [writeSlots_high]
  simp only [writeField, toBits, fieldBits, List.range, List.range.loop, List.map, List.zipIdx,
    List.foldl, one]
  generalize i % 4 = k, f[i] = x, i / 4 = w
  by_cases hw : o ≤ w ∧ w < o + 5
  · obtain ⟨b, rfl⟩ : ∃ b, w = o + b := ⟨w - o, by omega⟩
    have hb : b = 0 ∨ b = 1 ∨ b = 2 ∨ b = 3 ∨ b = 4 := by omega
    rcases hb with rfl | rfl | rfl | rfl | rfl <;> simp
  · repeat rw [if_neg (by omega)]

/-- The fill makes every window `LOW` and leaves slots 48 and 49 (41_encoder.md R121). -/
theorem fillLow_getElem (c : Config) (f : Frame) (i : Nat) (h : i < 50) :
    (fillLow c f)[i] = if i / 4 < 12 then lowSlot c (i % 4) else f[i] := by
  have fold (ks : List Nat) (g : Frame) :
      (ks.foldl (fun f w => writeSlots (slotWindow 0 w) (lowPattern c) f) g)[i] =
        if i / 4 ∈ ks then lowSlot c (i % 4) else g[i] := by
    induction ks generalizing g with
    | nil => rfl
    | cons k ks ih =>
      rw [List.foldl_cons, ih, writeSlots_low]
      by_cases hk : i / 4 = k <;> by_cases hm : i / 4 ∈ ks <;> simp [hk, hm]
  rw [fillLow, fold]
  simp only [List.mem_range]

/-- The state write sets window 11 when the state is On (41_encoder.md R124). -/
theorem writeState_getElem (c : Config) (x : OnOff) (f : Frame) (i : Nat) (h : i < 50) :
    (writeState c x f)[i] = if i / 4 = 11 ∧ x = .on then highSlot c (i % 4) else f[i] := by
  cases x with
  | on => simpa [writeState, stateOffset] using writeSlots_high c 11 0 f i h
  | off => simp [writeState]

/-- The footer write sets slots 48 and 49 (41_encoder.md R125). -/
theorem writeFooter_getElem (c : Config) (f : Frame) (i : Nat) (h : i < 50) :
    (writeFooter c f)[i] =
      if i = 48 then shortSlot c else if i = 49 then footerSlot c else f[i] := by
  simp only [writeFooter, writeSlots, List.zip_cons_cons, List.zip_nil_left, List.foldl_cons,
    List.foldl_nil, Vector.getElem_setIfInBounds]
  split_ifs <;> first | rfl | omega

/-- No slot of a legal configuration wraps (00_scope.md R14, 41_encoder.md R128). -/
theorem slot_toNat (c : Config) :
    (shortSlot c).toNat = c.params.plslen ∧ (longSlot c).toNat = 3 * c.params.plslen ∧
      (footerSlot c).toNat = c.params.pulseDiv * c.params.plslen := by
  obtain ⟨_, _, _, _⟩ := c.legal
  simp only [shortSlot, longSlot, footerSlot, BitVec.toNat_ofNat, pulse, slotW] at *
  refine ⟨Nat.mod_eq_of_lt ?_, Nat.mod_eq_of_lt ?_, Nat.mod_eq_of_lt ?_⟩ <;> omega

end Sys2Proof.Machine
end

