-- ==== Sys2Proof/Laws/State.lean ====
section
/-! SUPPORT. What each update of the state leaves in each field, one lemma a field. -/

namespace Sys2Proof.Machine

variable (s : State)

@[simp] theorem respond_pending (r : Response) : (respond r s).pending = some r := rfl
@[simp] theorem respond_diag (r : Response) : (respond r s).diag = s.diag := rfl
@[simp] theorem respond_offered (r : Response) : (respond r s).offered = s.offered := rfl
@[simp] theorem respond_script (r : Response) : (respond r s).script = s.script := rfl
@[simp] theorem respond_taken (r : Response) : (respond r s).taken = s.taken := rfl
@[simp] theorem respond_readings (r : Response) : (respond r s).readings = s.readings := rfl
@[simp] theorem respond_config (r : Response) : (respond r s).config = s.config := rfl

@[simp] theorem emitDiag_pending (ds : List Diag) : (emitDiag ds s).pending = s.pending := rfl
@[simp] theorem emitDiag_diag (ds : List Diag) : (emitDiag ds s).diag = s.diag ++ ds := rfl
@[simp] theorem emitDiag_offered (ds : List Diag) : (emitDiag ds s).offered = s.offered := rfl
@[simp] theorem emitDiag_script (ds : List Diag) : (emitDiag ds s).script = s.script := rfl
@[simp] theorem emitDiag_taken (ds : List Diag) : (emitDiag ds s).taken = s.taken := rfl
@[simp] theorem emitDiag_readings (ds : List Diag) : (emitDiag ds s).readings = s.readings := rfl
@[simp] theorem emitDiag_config (ds : List Diag) : (emitDiag ds s).config = s.config := rfl

@[simp] theorem takeResponse_pending (r : Response) : (takeResponse r s).pending = none := rfl
@[simp] theorem takeResponse_diag (r : Response) : (takeResponse r s).diag = s.diag := rfl
@[simp] theorem takeResponse_offered (r : Response) : (takeResponse r s).offered = s.offered := rfl
@[simp] theorem takeResponse_script (r : Response) : (takeResponse r s).script = s.script := rfl
@[simp] theorem takeResponse_taken (r : Response) : (takeResponse r s).taken = s.taken ++ [r] := rfl
@[simp] theorem takeResponse_readings (r : Response) : (takeResponse r s).readings = s.readings := rfl
@[simp] theorem takeResponse_config (r : Response) : (takeResponse r s).config = s.config := rfl

@[simp] theorem resetEngine_pending : (resetEngine s).pending = none := rfl
@[simp] theorem resetEngine_diag : (resetEngine s).diag = s.diag := rfl
@[simp] theorem resetEngine_offered : (resetEngine s).offered = s.offered := rfl
@[simp] theorem resetEngine_script : (resetEngine s).script = s.script := rfl
@[simp] theorem resetEngine_taken : (resetEngine s).taken = s.taken := rfl
@[simp] theorem resetEngine_readings : (resetEngine s).readings = s.readings := rfl
@[simp] theorem resetEngine_config : (resetEngine s).config = s.config := rfl

@[simp] theorem offerRequest_pending (w : RequestWord) : (offerRequest w s).pending = s.pending := rfl
@[simp] theorem offerRequest_diag (w : RequestWord) : (offerRequest w s).diag = s.diag := rfl
@[simp] theorem offerRequest_offered (w : RequestWord) : (offerRequest w s).offered = some w := rfl
@[simp] theorem offerRequest_script (w : RequestWord) : (offerRequest w s).script = s.script := rfl
@[simp] theorem offerRequest_taken (w : RequestWord) : (offerRequest w s).taken = s.taken := rfl
@[simp] theorem offerRequest_readings (w : RequestWord) : (offerRequest w s).readings = s.readings := rfl
@[simp] theorem offerRequest_config (w : RequestWord) : (offerRequest w s).config = s.config := rfl

@[simp] theorem withdrawRequest_pending : (withdrawRequest s).pending = s.pending := rfl
@[simp] theorem withdrawRequest_diag : (withdrawRequest s).diag = s.diag := rfl
@[simp] theorem withdrawRequest_offered : (withdrawRequest s).offered = none := rfl
@[simp] theorem withdrawRequest_script : (withdrawRequest s).script = s.script := rfl
@[simp] theorem withdrawRequest_taken : (withdrawRequest s).taken = s.taken := rfl
@[simp] theorem withdrawRequest_readings : (withdrawRequest s).readings = s.readings := rfl
@[simp] theorem withdrawRequest_config : (withdrawRequest s).config = s.config := rfl

@[simp] theorem noteReading_pending (x : Reading) : (noteReading x s).pending = s.pending := rfl
@[simp] theorem noteReading_diag (x : Reading) : (noteReading x s).diag = s.diag := rfl
@[simp] theorem noteReading_offered (x : Reading) : (noteReading x s).offered = s.offered := rfl
@[simp] theorem noteReading_script (x : Reading) : (noteReading x s).script = s.script := rfl
@[simp] theorem noteReading_taken (x : Reading) : (noteReading x s).taken = s.taken := rfl
@[simp] theorem noteReading_readings (x : Reading) : (noteReading x s).readings = s.readings ++ [x] := rfl
@[simp] theorem noteReading_config (x : Reading) : (noteReading x s).config = s.config := rfl

@[simp] theorem offeringNow_pending (w : RequestWord) : (offeringNow w s).pending = none := rfl
@[simp] theorem offeringNow_diag (w : RequestWord) : (offeringNow w s).diag = s.diag := rfl
@[simp] theorem offeringNow_offered (w : RequestWord) : (offeringNow w s).offered = some w := rfl
@[simp] theorem offeringNow_script (w : RequestWord) : (offeringNow w s).script = .engine :: s.script := rfl
@[simp] theorem offeringNow_taken (w : RequestWord) : (offeringNow w s).taken = s.taken := rfl
@[simp] theorem offeringNow_readings (w : RequestWord) : (offeringNow w s).readings = s.readings := rfl
@[simp] theorem offeringNow_config (w : RequestWord) : (offeringNow w s).config = s.config := rfl

@[simp] theorem raise_pending (op : Op) (c : Cause) : (raise op c s).pending = some (errorResponse op c.status c.field) := rfl
@[simp] theorem raise_diag (op : Op) (c : Cause) : (raise op c s).diag = s.diag ++ c.diag := rfl
@[simp] theorem raise_offered (op : Op) (c : Cause) : (raise op c s).offered = s.offered := rfl
@[simp] theorem raise_script (op : Op) (c : Cause) : (raise op c s).script = s.script := rfl
@[simp] theorem raise_taken (op : Op) (c : Cause) : (raise op c s).taken = s.taken := rfl
@[simp] theorem raise_readings (op : Op) (c : Cause) : (raise op c s).readings = s.readings := rfl
@[simp] theorem raise_config (op : Op) (c : Cause) : (raise op c s).config = s.config := rfl

@[simp] theorem readMetadata_pending : (readMetadata s).pending = s.pending := rfl
@[simp] theorem readMetadata_diag : (readMetadata s).diag = s.diag := rfl
@[simp] theorem readMetadata_offered : (readMetadata s).offered = s.offered := rfl
@[simp] theorem readMetadata_script : (readMetadata s).script = s.script := rfl
@[simp] theorem readMetadata_taken : (readMetadata s).taken = s.taken := rfl
@[simp] theorem readMetadata_readings : (readMetadata s).readings = s.readings ++ [.metadata (metadata s.config)] := rfl
@[simp] theorem readMetadata_config : (readMetadata s).config = s.config := rfl

@[simp] theorem resetWith_pending (c : Config) : (State.resetWith c).pending = none := rfl
@[simp] theorem resetWith_diag (c : Config) : (State.resetWith c).diag = [] := rfl
@[simp] theorem resetWith_offered (c : Config) : (State.resetWith c).offered = none := rfl
@[simp] theorem resetWith_script (c : Config) : (State.resetWith c).script = [] := rfl
@[simp] theorem resetWith_taken (c : Config) : (State.resetWith c).taken = [] := rfl
@[simp] theorem resetWith_readings (c : Config) : (State.resetWith c).readings = [] := rfl
@[simp] theorem resetWith_config (c : Config) : (State.resetWith c).config = c := rfl

end Sys2Proof.Machine
end

