-- ==== Sys2Proof/Laws/Ops.lean ====
section
/-! SUPPORT. What each shared operation can do, said once: the validator, the bit decoder, one
transaction, the engine's turn, one step. -/

namespace Sys2Proof.Machine

/-- The range check on the signed value (40_validator.md R102). -/
@[simp] theorem inCodeRange_eq_true (v : Int) : inCodeRange v = true ↔ 0 ≤ v ∧ v ≤ 31 := by
  rw [inCodeRange, Bool.and_eq_true, decide_eq_true_iff, decide_eq_true_iff]
  rfl

@[simp] theorem inCodeRange_eq_false (v : Int) : inCodeRange v = false ↔ v < 0 ∨ 31 < v := by
  rw [← Bool.not_eq_true, inCodeRange_eq_true]
  omega

/-- The validator either names the first failure or answers the command (40_validator.md R101 to
R105). -/
theorem validate_cases (q : Request) :
    (q.sysP = false ∧ validate q = .error (.missingField .systemcode)) ∨
    (q.sysP = true ∧ q.unitP = false ∧ validate q = .error (.missingField .unitcode)) ∨
    (q.sysP = true ∧ q.unitP = true ∧ q.on = q.off ∧ validate q = .error (.missingField .state)) ∨
    (q.sysP = true ∧ q.unitP = true ∧ q.on ≠ q.off ∧ (q.rawSys.toInt < 0 ∨ 31 < q.rawSys.toInt) ∧
      validate q = .error (.outOfRange .systemcode)) ∨
    (q.sysP = true ∧ q.unitP = true ∧ q.on ≠ q.off ∧ (0 ≤ q.rawSys.toInt ∧ q.rawSys.toInt ≤ 31) ∧
      (q.rawUnit.toInt < 0 ∨ 31 < q.rawUnit.toInt) ∧ validate q = .error (.outOfRange .unitcode)) ∨
    (q.sysP = true ∧ q.unitP = true ∧ q.on ≠ q.off ∧ (0 ≤ q.rawSys.toInt ∧ q.rawSys.toInt ≤ 31) ∧
      (0 ≤ q.rawUnit.toInt ∧ q.rawUnit.toInt ≤ 31) ∧
      validate q = .ok ⟨q.rawSys.setWidth 5, q.rawUnit.setWidth 5, if q.on then .on else .off⟩) := by
  have range (v : Int) : (inCodeRange v = true ∧ 0 ≤ v ∧ v ≤ 31) ∨
      (inCodeRange v = false ∧ (v < 0 ∨ 31 < v)) := by
    rcases h : inCodeRange v
    · exact .inr ⟨rfl, (inCodeRange_eq_false v).mp h⟩
    · exact .inl ⟨rfl, (inCodeRange_eq_true v).mp h⟩
  rw [validate]
  rcases q.sysP with _ | _
  · simp
  rcases q.unitP with _ | _
  · simp
  by_cases ho : q.on = q.off
  · simp [ho]
  rcases range q.rawSys.toInt with ⟨hS, hS'⟩ | ⟨hS, hS'⟩
  · rcases range q.rawUnit.toInt with ⟨hU, hU'⟩ | ⟨hU, hU'⟩
    · simp only [ho, hS, hU, hS', hU']; simpa using ho
    · simp only [ho, hS, hU, hS', hU']; simpa using ho
  · simp only [ho, hS, hS']; simpa using ho

/-- A failure of the validator is a missing field or an address out of range (60_exceptions.md
R202, R203). -/
theorem validate_error_cases {q : Request} {c : Cause} (h : validate q = .error c) :
    (∃ f, c = .missingField f) ∨ c = .outOfRange .systemcode ∨ c = .outOfRange .unitcode := by
  rcases validate_cases q with ⟨_, h'⟩ | ⟨_, _, h'⟩ | ⟨_, _, _, h'⟩ | ⟨_, _, _, _, h'⟩ |
    ⟨_, _, _, _, _, h'⟩ | ⟨_, _, _, _, _, h'⟩ <;> rw [h'] at h <;> cases h <;> simp

/-- VALIDATE raises what the validator found or answers the command (40_validator.md R110). -/
theorem exec_validate_cases (q : Request) (s : State) :
    (∃ c, validate q = .error c ∧ exec (.validate q) s = .next (raise .validate c s)) ∨
    (∃ c, validate q = .ok c ∧
      exec (.validate q) s = .next (respond (commandResponse .validate c) s)) := by
  rcases h : validate q with c | c <;> simp [exec, execValidate, h]

/-- ENCODE raises what the validator found or answers the command and its frame
(41_encoder.md R130). -/
theorem exec_encode_cases (q : Request) (s : State) :
    (∃ c, validate q = .error c ∧ exec (.encode q) s = .next (raise .encode c s)) ∨
    (∃ c, validate q = .ok c ∧
      exec (.encode q) s = .next (respond (frameResponse .encode c (buildFrame s.config c)) s)) := by
  rcases h : validate q with c | c <;> simp [exec, execEncode, h]

/-- DECODE suppresses the vector or answers its command (42_decoder.md R160). -/
theorem exec_decode_cases (q : Request) (s : State) :
    (decodeBits q.bits = none ∧ exec (.decode q) s = .next (raise .decode .suppressedDecode s)) ∨
    (∃ c, decodeBits q.bits = some c ∧
      exec (.decode q) s = .next (respond (commandResponse .decode c) s)) := by
  rcases h : decodeBits q.bits with _ | c <;> simp [exec, execDecode, h]

/-- RESERVED3 raises `IllegalOp` (60_exceptions.md R205). -/
@[simp] theorem exec_reserved3_eq (q : Request) (s : State) :
    exec (.reserved3 q) s = .next (raise .reserved3 .illegalOp s) := rfl

/-- `exec` is total, and all an operation does is answer and record (10_state.md R31,
60_exceptions.md R207). -/
theorem exec_next (i : Instr) (s : State) :
    ∃ r ds, exec i s = .next (respond r (emitDiag ds s)) := by
  have noDiag (r : Response) : respond r s = respond r (emitDiag [] s) := by
    simp [respond, emitDiag]
  rcases i with q | q | q | q
  · rcases exec_validate_cases q s with ⟨c, _, h⟩ | ⟨c, _, h⟩
    · exact ⟨_, _, h⟩
    · exact ⟨_, [], by rw [h, noDiag]⟩
  · rcases exec_encode_cases q s with ⟨c, _, h⟩ | ⟨c, _, h⟩
    · exact ⟨_, _, h⟩
    · exact ⟨_, [], by rw [h, noDiag]⟩
  · rcases exec_decode_cases q s with ⟨_, h⟩ | ⟨c, _, h⟩
    · exact ⟨_, _, h⟩
    · exact ⟨_, [], by rw [h, noDiag]⟩
  · exact ⟨_, _, exec_reserved3_eq q s⟩

/-- The engine's turn either accepts the offered request or does nothing (10_state.md R31). -/
theorem engineTurn_cases (s : State) :
    (∃ w, s.pending = none ∧ s.offered = some w ∧
      engineTurn s = exec (decodeWord w) (withdrawRequest s)) ∨
    ((s.pending ≠ none ∨ s.offered = none) ∧ engineTurn s = .next s) := by
  rcases hp : s.pending with _ | r <;> rcases ho : s.offered with _ | w <;>
    simp [engineTurn, hp, ho]

/-- What one step can do: one case an action, with the engine's turn where it has it
(notes/assumptions/3.md, 5.md). -/
theorem step_cases (s : State) :
    (s.script = [] ∧ step s = engineTurn s) ∨
    (∃ rest, s.script = .engine :: rest ∧ step s = engineTurn { s with script := rest }) ∨
    (∃ w rest, s.script = .offer w :: rest ∧
      step s = .next (offerRequest w { s with script := rest })) ∨
    (∃ rest, s.script = .withdraw :: rest ∧
      step s = .next (withdrawRequest { s with script := rest })) ∨
    (∃ r rest, s.script = .take :: rest ∧ s.pending = some r ∧
      step s = .next (takeResponse r { s with script := rest })) ∨
    (∃ rest, s.script = .take :: rest ∧ s.pending = none ∧ step s = engineTurn s) ∨
    (∃ rest, s.script = .reset :: rest ∧ step s = .next (resetEngine { s with script := rest })) ∨
    (∃ r rest, s.script = .readResponse :: rest ∧ s.pending = some r ∧
      step s = .next (noteReading (.response r) { s with script := rest })) ∨
    (∃ rest, s.script = .readResponse :: rest ∧ s.pending = none ∧
      step s = .fault .readWithoutResponse) ∨
    (∃ rest, s.script = .readMetadata :: rest ∧
      step s = .next (readMetadata { s with script := rest })) := by
  rcases hs : s.script with _ | ⟨a, rest⟩
  · simp [step, turn, hs]
  · cases a <;> rcases hp : s.pending with _ | r <;>
      simp [step, turn, act, readResponse, hs, hp]

end Sys2Proof.Machine
end

