-- ==== Sys2Proof/Laws/PerInstr.lean ====
section
/-! SUPPORT. What holds of every operation as syntax, one lemma a constructor. -/

namespace Sys2Proof.Laws.OpcodeBits

/-- The packed operation has its row's code in `q[1:0]` (30_encoding.md R61). -/
def Statement (i : Instr) : Prop := (Sys2Proof.encode i).extractLsb' 0 2 = i.op.code

theorem lowBits (i : Instr) : Statement i := by
  unfold Statement Sys2Proof.encode place
  ext k hk
  interval_cases k <;> simp

theorem validate (q : Request) : Statement (.validate q) := lowBits _
theorem encode (q : Request) : Statement (.encode q) := lowBits _
theorem decode (q : Request) : Statement (.decode q) := lowBits _
theorem reserved3 (q : Request) : Statement (.reserved3 q) := lowBits _

end Sys2Proof.Laws.OpcodeBits
end

