-- ==== Sys2Proof/Laws/Platform.lean ====
section
/-! SUPPORT. What a step of a platform can do. -/

namespace Sys2Proof.Machine

/-- A platform's step is a step of the engine named, or nothing where there is none
(20_memory.md R51). -/
theorem Platform.step_next_cases {k : Nat} {p p' : Platform} (h : Platform.step k p = .next p') :
    (p.engines[k]? = none ∧ p' = p) ∨
    (∃ s t, p.engines[k]? = some s ∧ Sys2Proof.Machine.step s = .next t ∧
      p' = { p with engines := p.engines.set k t }) := by
  simp only [Platform.step] at h
  split at h
  · rename_i hk
    cases h
    exact .inl ⟨hk, rfl⟩
  · rename_i s hk
    split at h
    · rename_i t ht
      cases h
      exact .inr ⟨s, t, hk, ht, rfl⟩
    · cases h
    · cases h

end Sys2Proof.Machine
end

