-- ==== Sys2Proof/Tests/Slice0.lean ====
section
/-! SUPPORT. Tests. Expected results are those of 95_test_vectors.md (the vector's name stands with
each) or of the rule named; the witnesses show that the hypotheses of the statements can be met. -/

namespace Sys2Proof.Tests

open Sys2Proof Sys2Proof.Machine

/-! ### Helpers -/

/-- A legal configuration with the default `PLSLEN`; its `PULSE_DIV` is one legal value, no claim. -/
def cfg : Config := ⟨⟨312, 7, 1, 2, 3⟩, by decide⟩

/-- An engine right after reset. -/
def idle : State := State.resetWith cfg

/-- A request in which everything is supplied but an indicator: codes `a` and `b`. -/
def request (a b : Int) (on off : Bool) : Request :=
  ⟨true, true, on, off, 0#12, 0#14, BitVec.ofInt 32 a, BitVec.ofInt 32 b⟩

/-- A request of DECODE. -/
def vector (bits : BitVector) : Request := ⟨false, false, false, false, bits, 0#14, 0#32, 0#32⟩

/-- The status word and the diagnostics after a step that accepts the word `w` right after reset. -/
def answer (w : Nat) : Option (Word × List Diag) :=
  match step (idle.withFetchWord 96 w) with
  | .next t => t.pending.map fun r => (r.statusWord, t.diag)
  | _ => none

/-- Slots `lo` to `lo + n - 1` of the frame a step answers the word `w` with. -/
def slots (w lo n : Nat) : List Nat :=
  match step (idle.withFetchWord 96 w) with
  | .next t =>
    match t.pending with
    | some r => ((r.frame.toList.drop lo).take n).map BitVec.toNat
    | none => []
  | _ => []

/-- The next state of a step, the state itself where there is none. -/
def after (s : State) : State :=
  match step s with
  | .next t => t
  | _ => s

/-- An error response. -/
def refusedUnit : Response := errorResponse .encode .outOfRange (some .unitcode)

/-- A state that holds a response while a request is offered. -/
def busy (script : List Action) : State :=
  { idle with pending := some refusedUnit, offered := some 0x00000010000000010000002d#96, script := script }

/-! ### Well-formedness -/

/-- R60: the reserved bits are written 0. -/
theorem test_wellFormed_refuses_reserved_bits :
    (Instr.encode { request 1 16 false true with reserved := 0x3fff#14 }).wellFormed = false := by decide

theorem test_wellFormed_accepts_written_request :
    (Instr.encode (request 1 16 false true)).wellFormed = true := by decide

/-! ### Decoding, words written out from the table of R60 -/

/-- V2: `OP` 0, both codes 31, `off`. -/
theorem test_decode_validate :
    decodeTableWord 96 0x0000001f0000001f0000002c = some (.validate (request 31 31 false true)) := by decide

/-- E1: `OP` 1, codes 0 and 5, `on`. -/
theorem test_decode_encode :
    decodeTableWord 96 0x00000005000000000000001d = some (.encode (request 0 5 true false)) := by decide

/-- X5: `OP` 2, elements 5 and 10 set. -/
theorem test_decode_decode :
    decodeTableWord 96 0x000000000000000000010802 = some (.decode (vector 0b010000100000#12)) := by decide

/-- R2: `OP` 3 with every operand set. -/
theorem test_decode_reserved3 :
    decodeTableWord 96 0x00000005000000050003ffdf =
      some (.reserved3 ⟨true, true, true, false, 0xfff#12, 0#14, 5#32, 5#32⟩) := by decide

/-- The reserved bits reach the request (30_encoding.md R60). -/
theorem test_decode_reserved_bits :
    (decodeWord 0x0000000500000000fffc001d#96).request.reserved = 0x3fff#14 := by decide

/-- No two rows of the opcode table share a word: the masks agree and the patterns differ (R61). -/
theorem test_opcode_rows_are_disjoint :
    opcodeTable.Pairwise fun a b => a.mask = b.mask ∧ a.pattern &&& a.mask ≠ b.pattern &&& b.mask := by
  decide

/-! ### One step for each operation -/

/-- V2. -/
theorem test_validate_answers_command : answer 0x0000001f0000001f0000002c = some (0x0003ff58#32, []) := by
  decide

/-- V15, V8, V14 and V16: systemcode is named before unitcode, a missing field before one out of
range, with the codes of R25. -/
theorem test_validate_names_first_failure :
    answer 0x00000028000000280000001c = some (0x00000002#32, [⟨.error, .systemcode, .outOfRange⟩]) ∧
    answer 0xfffffff9000000000000002c = some (0x0000000a#32, [⟨.error, .unitcode, .outOfRange⟩]) ∧
    answer 0x000000050000002800000014 = some (0x00000009#32, [⟨.error, .unitcode, .missing⟩]) ∧
    answer 0x00000005000000280000000c = some (0x00000011#32, [⟨.error, .state, .missing⟩]) := by
  decide

/-- E1 with all reserved bits set (the corner of section 3): status word and slots 16 to 31. -/
theorem test_encode_writes_windows :
    answer 0x0000000500000000fffc001d = some (0x0004a0f8#32, []) ∧
    slots 0x0000000500000000fffc001d 16 16 =
      [312, 936, 936, 312, 312, 936, 312, 936, 312, 936, 936, 312, 312, 936, 312, 936] := by
  decide +kernel

/-- E3: windows 9 to 11 and the footer; window 10 stays `LOW`. -/
theorem test_encode_leaves_window_ten_low :
    slots 0x0000001f0000001f0000001d 36 14 =
      [312, 936, 312, 936, 312, 936, 936, 312, 312, 936, 312, 936, 312, 7 * 312] := by
  decide +kernel

/-- X1: the unitcode is 10. -/
theorem test_decode_weighs_every_element : answer 0x000000000000000000005142 = some (0x000945d8#32, []) := by
  decide

/-- X3: suppressed with every element outside the unitcode set. -/
theorem test_decode_suppresses_unit_zero : answer 0x0000000000000000000307c2 = some (0x0008001b#32, []) := by
  decide

/-- R2. -/
theorem test_reserved3_answers_illegal_op : answer 0x00000005000000050003ffdf = some (0x000c001c#32, []) := by
  decide

/-! ### The ports -/

/-- P2 step 2: not accepted, a response is pending. -/
theorem test_offer_waits_while_response_is_pending : (after (busy [.engine])).offered.isSome = true ∧
    (after (busy [.engine])).pending = some refusedUnit := by decide

/-- P2 steps 3 and 4: taken, then the same request accepted. -/
theorem test_offer_is_accepted_after_take :
    ((after (after (busy [.take]))).pending.map Response.statusWord) = some 0x00060178#32 := by decide

/-- P4 step 5. -/
theorem test_read_after_reset_faults :
    (match step (after (busy [.reset, .readResponse])) with
      | .fault f => some f
      | _ => none) = some .readWithoutResponse := by decide

/-- V6, and a line out of order. -/
theorem test_text_reads_negative_integer :
    readRequest "VALIDATE systemcode=-2147483648 unitcode=5 on".toList =
      .ok (.validate (request (-2147483648) 5 true false)) ∧
    readRequest "VALIDATE on unitcode=5".toList = .error .malformedOperand := by decide

/-- R251 (notes/assumptions/3.md, 4.md): of two requests offered in turn only the second is run, R1's
answer to the word 3. -/
theorem test_replaced_offer_is_not_run :
    ((after (after (after { idle with
      script := [.offer 0x0000001f0000001f0000002c#96, .offer 3#96, .engine] }))).pending.map
        Response.statusWord) = some 0x000c001c#32 := by decide

/-- L-RT, the row sys 21, unit 10: thresholded bits `101010101001`. -/
theorem test_threshold_reads_windows :
    threshold cfg (buildFrame cfg ⟨21#5, 10#5, .on⟩) = 0b100101010101#12 := by decide +kernel

/-! ### Witnesses for the hypotheses of the statements -/

theorem witness_EveryWordSelectsExactlyOneOperation :
    (0xffffffff00000000fffc0000#96).toNat % 4 = 0 ∧ (1#96).toNat % 4 = 1 ∧ (2#96).toNat % 4 = 2 ∧
      (0xffffffffffffffffffffffff#96).toNat % 4 = 3 := by decide

theorem witness_PackedBytesAreLittleEndian :
    (requestBytes 0x0000001f0000001f0000002c#96)[0]? = some 0x2c#8 ∧
    (requestBytes 0x1f000000000000000000002c#96)[11]? = some 0x1f#8 ∧
    (wordBytes 0x000c001c#32)[0]? = some 0x1c#8 ∧ (wordBytes 0xab0c001c#32)[3]? = some 0xab#8 ∧
    refusedUnit.words[0]? = some refusedUnit.statusWord ∧ refusedUnit.words[50]? = some 0#32 ∧
    (0 : Nat) < 4 ∧ (3 : Nat) < 4 := by decide

theorem witness_WrittenWordsDecodeToTheirRequests :
    (List.replicate 11 (0#8 : Byte)).length < 12 ∧ ([] : List Byte).length < 12 := by decide

/-- I15: both ends of the range, the integer next to each, both digits at the ends, and words that
are no integers. -/
theorem witness_RawCandidatesAreReadWithinTheirRange :
    readInt "2147483647".toList = some (2 ^ 31 - 1) ∧ readInt "-2147483648".toList = some (-(2 ^ 31)) ∧
    readInt "2147483648".toList = some (2 ^ 31) ∧ readInt "-2147483649".toList = some (-(2 ^ 31) - 1) ∧
    readInt "-".toList = none ∧ readInt [] = none ∧
    readNat "214748364".toList = some 214748364 ∧ (0 : Nat) < 10 ∧ (9 : Nat) < 10 ∧
    '/' ∈ "1/".toList ∧ '/'.toNat < 48 ∧ ':' ∈ "1:".toList ∧ 57 < ':'.toNat ∧
    readNat "--5".toList = none ∧ readNat "-5".toList = none ∧ readNat "5x".toList = none := by decide

/-- A word that begins with `-` and one that does not, neither an integer. -/
theorem witness_RawCandidatesAreReadWithinTheirRange_no_integer (w : List Char)
    (h : w = "--5".toList ∨ w = "5x".toList) :
    readNat w = none ∧ ∀ ds, w = '-' :: ds → readNat ds = none := by
  rcases h with rfl | rfl
  · exact ⟨by decide, fun ds h => by cases h; decide⟩
  · exact ⟨by decide, fun ds h => by cases h⟩

theorem witness_StatusWordFieldsStandAtTheirBits : (0 : Nat) < 50 ∧ (49 : Nat) < 50 := by decide

/-- V12, V14, V10 and V11, V3 and V5, V7 and V8, V2 and V9: one request for each clause, at both ends
of its range, for VALIDATE; the hypothesis holds of ENCODE of the same requests by its second half. -/
theorem witness_FirstValidationFailureIsReported :
    ({ request 0 5 true false with sysP := false } : Request).sysP = false ∧
    ({ request 40 5 true false with unitP := false } : Request).unitP = false ∧
    (request 0 5 false false).on = (request 0 5 false false).off ∧
    (request 0 5 true true).on = (request 0 5 true true).off ∧
    (request 32 0 true false).rawSys.toInt = 32 ∧ (request (-1) 5 true false).rawSys.toInt = -1 ∧
    (request 0 32 true false).rawSys.toInt = 0 ∧ (request 0 32 true false).rawUnit.toInt = 32 ∧
    (request 31 (-1) false true).rawSys.toInt = 31 ∧ (request 31 (-1) false true).rawUnit.toInt = -1 ∧
    (request 31 31 false true).rawUnit.toInt = 31 ∧ (request 0 0 true false).rawUnit.toInt = 0 ∧
    (request 31 31 false true).on ≠ (request 31 31 false true).off := by decide

/-- Operands that are present and in range, at both ends of the range: the hypotheses of the
statements about VALIDATE and ENCODE answering a command, and of the round trip. -/
theorem witness_ValidateAnswersTheCommand (q : Request)
    (h : q = request 31 0 true false ∨ q = request 0 31 false true) :
    q.sysP = true ∧ q.unitP = true ∧ q.on ≠ q.off ∧ 0 ≤ q.rawSys.toInt ∧ q.rawSys.toInt ≤ 31 ∧
      0 ≤ q.rawUnit.toInt ∧ q.rawUnit.toInt ≤ 31 := by
  rcases h with rfl | rfl <;> decide

theorem witness_EncodeAnswersTheClosedFormFrame :
    (request 31 0 true false).sysP = true ∧ (request 31 0 true false).unitP = true ∧
    (request 31 0 true false).on ≠ (request 31 0 true false).off ∧
    0 ≤ (request 31 0 true false).rawSys.toInt ∧ (request 31 0 true false).rawSys.toInt ≤ 31 ∧
    0 ≤ (request 31 0 true false).rawUnit.toInt ∧ (request 31 0 true false).rawUnit.toInt ≤ 31 ∧
    (0 : Nat) < 48 ∧ (47 : Nat) < 48 := by decide

/-- Both clauses of the round trip: unitcode 0, and a unitcode that is not 0. -/
theorem witness_RoundTripInvertsTheState :
    (request 31 0 true false).rawUnit = 0#32 ∧ (request 0 31 false true).rawUnit ≠ 0#32 := by decide

theorem witness_EncodedWindowsFollowTheCommand : (0 : Nat) < 5 ∧ (4 : Nat) < 5 := by decide

theorem witness_EveryFrameLastsTheSame : (0 : Nat) < 12 ∧ (11 : Nat) < 12 := by decide

theorem witness_FramesTellCommandsApart :
    buildFrame cfg ⟨21#5, 10#5, .on⟩ = buildFrame cfg ⟨21#5, 10#5, .on⟩ := rfl

/-- X7: only element 9 of the unitcode field; and only element 5. -/
theorem witness_DecodeAnswersTheCommandOfTheVector :
    (vector 0b101000000000#12).bits.extractLsb 9 5 ≠ 0#5 ∧
    (vector 0b000000100000#12).bits.extractLsb 9 5 ≠ 0#5 := by decide

/-- X3. -/
theorem witness_UnitZeroIsSuppressedSilently (i : Nat) (h5 : 5 ≤ i) (h9 : i ≤ 9) :
    (vector 0b110000011111#12).bits.getLsbD i = false := by
  have h : i = 5 ∨ i = 6 ∨ i = 7 ∨ i = 8 ∨ i = 9 := by omega
  rcases h with rfl | rfl | rfl | rfl | rfl <;> decide

/-- Both ends of the element range, and X7's vector, which has one of the elements set. -/
theorem witness_SuppressedVectorsAreCounted :
    ((5 : Nat) ≤ 5 ∧ (5 : Nat) ≤ 9) ∧ ((5 : Nat) ≤ 9 ∧ (9 : Nat) ≤ 9) ∧
    (0b101000000000#12 : BitVector).getLsbD 9 ≠ false := by decide

theorem witness_RaisingCompletesWithTheErrorResponse :
    Cause.missingField .state = .missingField .state ∧ Cause.outOfRange .unitcode = .outOfRange .unitcode ∧
    (Cause.suppressedDecode = .suppressedDecode ∨ Cause.suppressedDecode = .illegalOp) ∧
    (Cause.illegalOp = .suppressedDecode ∨ Cause.illegalOp = .illegalOp) := by decide

/-- Requests that differ in every field their operation does not read. -/
theorem witness_OperationsReadOnlyTheirOperands :
    let q : Request := ⟨false, true, true, false, 0#12, 0#14, 99#32, 5#32⟩
    let p : Request := ⟨false, true, true, false, 0xfff#12, 0x3fff#14, 7#32, 5#32⟩
    let b : Request := ⟨true, false, false, true, 0xfff#12, 0#14, 1#32, 2#32⟩
    (q.sysP = p.sysP ∧ q.unitP = p.unitP ∧ q.on = p.on ∧ q.off = p.off ∧
      (q.sysP = true → q.rawSys = p.rawSys) ∧ (q.unitP = true → q.rawUnit = p.rawUnit)) ∧
    q ≠ p ∧ p.bits = b.bits ∧ p ≠ b := by decide

theorem witness_HistoryDoesNotInfluenceResponses :
    idle.config = (busy []).config ∧ idle.pending ≠ (busy []).pending := ⟨rfl, by decide⟩

/-- A request offered to an idle engine, for each way the engine gets the turn. -/
def offering (script : List Action) : State :=
  { idle with offered := some 0x00000010000000010000002d#96, script := script }

theorem witness_StepRunsTheOfferedRequest :
    (offering [.engine]).pending = none ∧
    (offering [.engine]).offered = some 0x00000010000000010000002d#96 ∧
    (offering [.engine]).script = [.engine] ∧ (offering []).script = [] ∧
    (offering [.take]).script = [.take] ∧
    decodeTableWord 96 3 = some (.reserved3 (vector 0#12)) := by decide

/-- Each way the engine gets the turn. -/
theorem witness_EveryAcceptedRequestIsAnsweredAtOnce (script : List Action) :
    (offering script).pending = none ∧
    (offering script).offered = some 0x00000010000000010000002d#96 ∧
    (offering [.engine, .take]).script = .engine :: [.take] ∧ (offering []).script = [] ∧
    (offering [.take, .reset]).script = .take :: [.reset] := ⟨rfl, rfl, rfl, rfl, rfl⟩

/-- Each way the engine gets the turn after the TAKE. -/
theorem witness_AfterAnErrorTheNextRequestIsAccepted (script : List Action) :
    (busy script).pending =
      some (errorResponse .encode (Cause.outOfRange .unitcode).status (Cause.outOfRange .unitcode).field) ∧
    (busy script).offered = some 0x00000010000000010000002d#96 ∧
    (busy [.take, .engine]).script = .take :: .engine :: [] ∧ (busy [.take]).script = [.take] ∧
    (busy [.take, .take, .reset]).script = .take :: .take :: [.reset] := ⟨rfl, rfl, rfl, rfl, rfl⟩

/-- A script for each clause, with nothing pending; the first request offered stands in `offering`. -/
theorem witness_OffersReplaceEachOtherWhole :
    let v : RequestWord := 0x0000001f0000001f0000002c#96
    let w : RequestWord := 3#96
    (offering [.offer w]).script = .offer w :: [] ∧ (offering [.withdraw]).script = .withdraw :: [] ∧
    (offering [.offer v, .offer w, .engine]).pending = none ∧
    (offering [.offer v, .offer w, .engine]).script = .offer v :: .offer w :: .engine :: [] ∧
    (offering [.offer w, .engine]).pending = none ∧
    (offering [.offer w, .engine]).script = .offer w :: .engine :: [] ∧
    (offering [.withdraw, .engine]).script = .withdraw :: .engine :: [] := by decide

/-- Each outcome for the pending response, and the clause about the offer. -/
theorem witness_NoResponseIsOverwrittenUnread (a : Action)
    (h : a = .engine ∨ a = .take ∨ a = .reset ∨ a = .readMetadata) :
    (busy [a]).pending = some refusedUnit ∧ (∃ t, step (busy [a]) = .next t) ∧
      (∀ w, (busy [a]).script.head? ≠ some (.offer w)) ∧ (busy [a]).script.head? ≠ some .withdraw := by
  rcases h with rfl | rfl | rfl | rfl <;> exact ⟨rfl, ⟨_, rfl⟩, by simp [busy], by simp [busy]⟩

theorem witness_TakeHandsOverThePendingResponse :
    (busy [.take, .reset]).pending = some refusedUnit ∧ (busy [.take, .reset]).script = .take :: [.reset] :=
  ⟨rfl, rfl⟩

theorem witness_ResetDiscardsThePendingResponse : (busy [.reset]).script = .reset :: [] := rfl

/-- Each clause: the stop, a safe state, a read that goes through, a read of the metadata. -/
theorem witness_OnlyAReadWithoutResponseStops :
    ({ idle with script := [.readResponse] } : State).script.head? = some .readResponse ∧
    ({ idle with script := [.readResponse] } : State).pending = none ∧
    (busy [.readResponse]).ReadSafe ∧ (busy [.readResponse]).pending = some refusedUnit ∧
    (busy [.readResponse]).script = .readResponse :: [] ∧
    ({ idle with script := [.readMetadata] } : State).script = .readMetadata :: [] :=
  ⟨rfl, rfl, fun _ h => Option.some_ne_none _ h, rfl, rfl, rfl⟩

theorem witness_MetadataOutputsAreConstant :
    (busy [.readMetadata]).script = .readMetadata :: [] ∧ ∃ t, step (busy [.readMetadata]) = .next t :=
  ⟨rfl, _, rfl⟩

theorem witness_ConfigurationIsFixedForLife : ∃ t, step (busy [.reset]) = .next t := ⟨_, rfl⟩

/-- Both outcomes: a failed ENCODE (EF1) is accepted, and a step that records nothing. -/
theorem witness_OneDiagnosticPerValidationFailure :
    (∃ t, step { idle with offered := some 0x00000005000000210000001d#96 } = .next t) ∧
    ∃ t, step (busy [.take]) = .next t := ⟨⟨_, rfl⟩, ⟨_, rfl⟩⟩

/-- Each clause, with nothing offered and with a response pending. -/
theorem witness_AnIdleEngineKeepsItsState :
    idle.script = [] ∧ idle.offered = none ∧ (busy []).script = [] ∧ (busy []).pending ≠ none ∧
    ({ idle with script := [.engine] } : State).script = .engine :: [] ∧
    ({ idle with script := [.engine] } : State).offered = none ∧
    (busy [.engine]).script = .engine :: [] ∧ (busy [.engine]).pending ≠ none ∧
    ({ idle with script := [.take] } : State).script = .take :: [] ∧
    ({ idle with script := [.take] } : State).pending = none ∧
    ({ idle with script := [.take] } : State).offered = none :=
  ⟨rfl, rfl, rfl, Option.some_ne_none _, rfl, rfl, rfl, Option.some_ne_none _, rfl, rfl, rfl⟩

/-- The largest legal slots, and each way a configuration fails to be legal by one. -/
theorem witness_OnlyLegalConfigurationsAreBuilt :
    (Parameters.mk 1431655765 3 0 0 0).Legal ∧ (Parameters.mk 1 4294967295 0 0 0).Legal ∧
    ¬ (Parameters.mk 0 1 0 0 0).Legal ∧ ¬ (Parameters.mk 1 0 0 0 0).Legal ∧
    ¬ (Parameters.mk 1431655766 1 0 0 0).Legal ∧ ¬ (Parameters.mk 1 4294967296 0 0 0).Legal := by decide

theorem witness_EnginesDoNotDisturbEachOther :
    let p : Platform := ⟨cfg, [idle, offering []]⟩
    p.engines[1]? = some (offering []) ∧ (∃ t, step (offering []) = .next t) ∧
      (∃ p', Platform.step 1 p = .next p') ∧ (0 : Nat) ≠ 1 ∧ p.uniform = true :=
  ⟨rfl, ⟨_, rfl⟩, ⟨_, rfl⟩, by decide, by decide⟩

/-- A state that meets the invariant with a response pending, from which a step is taken. -/
theorem witness_EveryStepKeepsTheInvariant :
    ({ idle with pending := some refusedUnit, script := [.take] } : State).Inv ∧
    ∃ t, step { idle with pending := some refusedUnit, script := [.take] } = .next t := by
  refine ⟨⟨?_, by simp [idle, State.resetWith], by simp [idle, State.resetWith],
    by simp [idle, State.resetWith]⟩, _, rfl⟩
  intro r h
  cases h
  constructor <;> simp [refusedUnit, errorResponse]

end Sys2Proof.Tests
end

/-! The response register and the diagnostic output (10_state.md R24, R26): how an operation ends,
what a step can do to the two, and the statements about them. -/

namespace Sys2Proof.Machine

/-- A cause reports a failure, never `OK` (60_exceptions.md R202 to R205). -/
@[simp] theorem Cause.status_ne_ok (c : Cause) : c.status ≠ .ok := by
  cases c <;> simp [Cause.status]

/-- `FIELD` names a field exactly for a validation failure (10_state.md R25). -/
theorem Cause.field_ne_none_iff (c : Cause) :
    c.field ≠ none ↔ c.status = .missingField ∨ c.status = .outOfRange := by
  cases c <;> simp [Cause.field, Cause.status]

theorem Cause.length_diag_le_one (c : Cause) : c.diag.length ≤ 1 := by
  cases c <;> simp [Cause.diag]

/-- A cause is a validation failure, named in its one record, or it is silent and reports no
validation failure (10_state.md R26). -/
theorem Cause.diag_cases (c : Cause) :
    (∃ f k, c.field = some f ∧ c.diag = [⟨.error, f, k⟩] ∧
      ((k = .missing ∧ c.status = .missingField) ∨ (k = .outOfRange ∧ c.status = .outOfRange))) ∨
    (c.diag = [] ∧ c.status ≠ .missingField ∧ c.status ≠ .outOfRange) := by
  cases c with
  | missingField f => exact .inl ⟨f, .missing, rfl, rfl, .inl ⟨rfl, rfl⟩⟩
  | outOfRange f => exact .inl ⟨f, .outOfRange, rfl, rfl, .inr ⟨rfl, rfl⟩⟩
  | suppressedDecode => exact .inr ⟨rfl, by decide, by decide⟩
  | illegalOp => exact .inr ⟨rfl, by decide, by decide⟩

@[simp] theorem getElem_blankFrame (k : Nat) (h : k < 50) : blankFrame[k] = 0#32 := by
  simp [blankFrame]

/-- How an operation ends: it raises a cause, one that leaves a record only in VALIDATE and ENCODE,
or it answers a command, with the command's frame exactly in ENCODE (40_validator.md R110,
41_encoder.md R130, 42_decoder.md R160, 60_exceptions.md R205). -/
theorem exec_cases (i : Instr) (s : State) :
    (∃ c, exec i s = .next (raise i.op c s) ∧
      (c.diag = [] ∨ i.op = .validate ∨ i.op = .encode)) ∨
    (∃ c, exec i s = .next (respond (commandResponse i.op c) s) ∧ i.op ≠ .encode) ∨
    (∃ c, exec i s = .next (respond (frameResponse i.op c (buildFrame s.config c)) s) ∧
      i.op = .encode) := by
  cases i with
  | validate q =>
    rcases exec_validate_cases q s with ⟨c, -, h⟩ | ⟨c, -, h⟩
    · exact .inl ⟨c, h, .inr (.inl rfl)⟩
    · exact .inr (.inl ⟨c, h, nofun⟩)
  | encode q =>
    rcases exec_encode_cases q s with ⟨c, -, h⟩ | ⟨c, -, h⟩
    · exact .inl ⟨c, h, .inr (.inr rfl)⟩
    · exact .inr (.inr ⟨c, h, rfl⟩)
  | decode q =>
    rcases exec_decode_cases q s with ⟨-, h⟩ | ⟨c, -, h⟩
    · exact .inl ⟨_, h, .inl rfl⟩
    · exact .inr (.inl ⟨c, h, nofun⟩)
  | reserved3 q => exact .inl ⟨_, exec_reserved3_eq q s, .inl rfl⟩

/-- What a turn of the engine can lead to: a request was accepted, or the state is as it was. -/
theorem engineTurn_next_cases {s t : State} (h : engineTurn s = .next t) :
    (∃ w, s.pending = none ∧ s.offered = some w ∧
      exec (decodeWord w) (withdrawRequest s) = .next t) ∨ t = s := by
  rcases engineTurn_cases s with ⟨w, hp, ho, e⟩ | ⟨-, e⟩
  · exact .inl ⟨w, hp, ho, e ▸ h⟩
  · exact .inr (Host.Outcome.next.inj (h.symm.trans e))

/-- A step is a turn of the engine, or it records nothing and at most empties the response
register. -/
theorem step_turn_or_quiet {s t : State} (h : step s = .next t) :
    (∃ left, step s = engineTurn { s with script := left }) ∨
    (t.diag = s.diag ∧ (t.pending = s.pending ∨ t.pending = none)) := by
  rcases step_cases s with ⟨-, e⟩ | ⟨rest, -, e⟩ | ⟨w, rest, -, e⟩ | ⟨rest, -, e⟩ |
    ⟨r, rest, -, -, e⟩ | ⟨rest, -, -, e⟩ | ⟨rest, -, e⟩ | ⟨r, rest, -, -, e⟩ | ⟨rest, -, -, e⟩ |
    ⟨rest, -, e⟩ <;> rw [e] at h
  · exact .inl ⟨s.script, e⟩
  · exact .inl ⟨rest, e⟩
  · cases h; exact .inr ⟨rfl, .inl rfl⟩
  · cases h; exact .inr ⟨rfl, .inl rfl⟩
  · cases h; exact .inr ⟨rfl, .inr rfl⟩
  · exact .inl ⟨s.script, e⟩
  · cases h; exact .inr ⟨rfl, .inr rfl⟩
  · cases h; exact .inr ⟨rfl, .inl rfl⟩
  · cases h
  · cases h; exact .inr ⟨rfl, .inl rfl⟩

/-- A step either accepts the offered request, with nothing pending (10_state.md R31), or records
nothing and at most empties the response register. -/
theorem step_next_cases {s t : State} (h : step s = .next t) :
    (∃ w left, s.pending = none ∧ s.offered = some w ∧
      exec (decodeWord w) { s with offered := none, script := left } = .next t) ∨
    (t.diag = s.diag ∧ (t.pending = s.pending ∨ t.pending = none)) := by
  rcases step_turn_or_quiet h with ⟨left, e⟩ | quiet
  · rcases engineTurn_next_cases (e ▸ h) with ⟨w, hp, ho, hx⟩ | rfl
    · exact .inl ⟨w, left, hp, ho, hx⟩
    · exact .inr ⟨rfl, .inl rfl⟩
  · exact .inr quiet

/-- Settles O22: an operation ends in the error response of a cause, in a command, or, in ENCODE
only, in a command with its frame. -/
theorem everyOperationAnswersOneResponse : Obligations.EveryOperationAnswersOneResponse := by
  intro i s
  rcases exec_cases i s with ⟨c, h, -⟩ | ⟨c, h, hop⟩ | ⟨c, h, hop⟩
  · refine ⟨errorResponse i.op c.status c.field, c.diag, h, c.length_diag_le_one, rfl,
      c.field_ne_none_iff, ?_⟩
    simp +contextual [errorResponse]
  · refine ⟨commandResponse i.op c, [], ?_⟩
    simp +contextual [h, respond, commandResponse, hop]
  · refine ⟨frameResponse i.op c (buildFrame s.config c), [], ?_⟩
    simp [h, respond, frameResponse, commandResponse, hop]

/-- Settles O35: only accepting a request makes a response pending, and of the responses only the
error response of a validation failure comes with a record. -/
theorem oneDiagnosticPerValidationFailure : Obligations.OneDiagnosticPerValidationFailure := by
  intro s t h
  rcases step_next_cases h with ⟨w, left, hp, -, hx⟩ | ⟨hd, hp⟩
  · rcases exec_cases (decodeWord w) { s with offered := none, script := left } with
      ⟨c, e, hop⟩ | ⟨c, e, -⟩ | ⟨c, e, -⟩ <;> obtain rfl := Host.Outcome.next.inj (e.symm.trans hx)
    · rcases c.diag_cases with ⟨f, k, hf, hd, hk⟩ | ⟨hd, hm, ho⟩
      · have validating := hop.resolve_left (by simp [hd])
        exact .inr ⟨_, f, k, hp, rfl, validating, hf, hk, by simp [hd]⟩
      · refine .inl ⟨by simp [hd], ?_⟩
        rintro r - ⟨⟩
        exact ⟨hm, ho⟩
    · exact .inl ⟨rfl, by rintro r - ⟨⟩; exact ⟨nofun, nofun⟩⟩
    · exact .inl ⟨rfl, by rintro r - ⟨⟩; exact ⟨nofun, nofun⟩⟩
  · refine .inl ⟨hd, fun r hs ht => ?_⟩
    simp [ht, hs] at hp

end Sys2Proof.Machine

/-! Packed forms carried as bytes (20_memory.md R45): what a byte of a word is, where the bytes of a
word stand in those of a list of words, and the statement about them. -/

namespace Sys2Proof.Machine

/-- The eight bits from `8k` upward are the digit of weight `256 ^ k`. -/
theorem extractLsb'_eq_base256_digit {n : Nat} (w : BitVec n) (k : Nat) :
    w.extractLsb' (8 * k) 8 = BitVec.ofNat 8 (w.toNat / 256 ^ k) := by
  rw [BitVec.extractLsb', Nat.shiftRight_eq_div_pow, Nat.pow_mul]

theorem getElem?_requestBytes (w : RequestWord) {k : Nat} (hk : k < 12) :
    (requestBytes w)[k]? = some (BitVec.ofNat 8 (w.toNat / 256 ^ k)) := by
  simp [requestBytes, hk, extractLsb'_eq_base256_digit]

theorem getElem?_wordBytes (w : Word) {k : Nat} (hk : k < 4) :
    (wordBytes w)[k]? = some (BitVec.ofNat 8 (w.toNat / 256 ^ k)) := by
  simp [wordBytes, hk, extractLsb'_eq_base256_digit]

/-- Every word takes four bytes, so word `j` of a list begins at byte `4j` of its bytes. -/
theorem getElem?_flatMap_wordBytes {ws : List Word} {j k : Nat} {w : Word} (hw : ws[j]? = some w)
    (hk : k < 4) : (ws.flatMap wordBytes)[4 * j + k]? = (wordBytes w)[k]? := by
  induction ws generalizing j with
  | nil => cases hw
  | cons v vs ih =>
    rw [List.flatMap_cons]
    cases j with
    | zero =>
      obtain rfl : v = w := Option.some.inj hw
      rw [Nat.mul_zero, Nat.zero_add, List.getElem?_append_left (by simpa using hk)]
    | succ j =>
      have skip : 4 * (j + 1) + k - (wordBytes v).length = 4 * j + k := by
        rw [length_wordBytes]; omega
      rw [List.getElem?_append_right (by rw [length_wordBytes]; omega), skip, ih hw]

/-- A packed response is 51 words of four bytes (30_encoding.md R70). -/
@[simp] theorem length_bytes (r : Response) : r.bytes.length = 204 := by
  simp [Response.bytes, List.length_flatMap]

/-- Settles O4: a byte of a word is its base-256 digit, and the bytes of a response are those of its
words, four to a word. -/
theorem packedBytesAreLittleEndian : Obligations.PackedBytesAreLittleEndian := by
  refine ⟨fun w _ => getElem?_requestBytes w, fun w _ => getElem?_wordBytes w,
    fun r => ⟨length_bytes r, fun j k w hw hk => ?_⟩⟩
  rw [Response.bytes, getElem?_flatMap_wordBytes hw hk, getElem?_wordBytes w hk]

end Sys2Proof.Machine

/-! The request word (30_encoding.md R60, R61): what each field of a decoded word is, which row of
the opcode table covers a word, and the statements about them. -/

namespace Sys2Proof

@[simp] theorem request_decodeWord (w : RequestWord) : (decodeWord w).request = decodeRequest w :=
  Instr.request_ofOp _ _

/-- "The operation is decided by `q[1:0]` alone" (30_encoding.md R60). -/
@[simp] theorem code_op_decodeWord (w : RequestWord) :
    (decodeWord w).op.code = w.extractLsb' 0 2 := by
  rw [decodeWord, Instr.op_ofOp, Op.code_ofCode]

theorem Op.code_injective : Function.Injective Op.code :=
  Function.LeftInverse.injective Op.ofCode_code

/-- The two low bits of a word as a number (30_encoding.md R61). -/
theorem toNat_lowBits (w : RequestWord) : (w.extractLsb' 0 2).toNat = w.toNat % 4 := by
  rw [BitVec.extractLsb'_toNat]; rfl

/-- The mask of the opcode table leaves the two low bits of a word. -/
theorem and_opcodeMask (w : RequestWord) : w &&& 3#96 = (w.extractLsb' 0 2).setWidth 96 := by
  apply BitVec.eq_of_toNat_eq
  rw [BitVec.toNat_setWidth_of_le (by decide), toNat_lowBits]
  exact Nat.and_two_pow_sub_one_eq_mod w.toNat 2

/-- Every row of the opcode table looks at `q[1:0]` only, for the code of its operation. -/
theorem mask_pattern_of_mem_opcodeTable {row : OpcodeRow} (h : row ∈ opcodeTable) :
    row.mask = 3#96 ∧ row.pattern = row.op.code.setWidth 96 := by
  revert row; decide

/-- A row covers the words that decode to its operation. -/
theorem covers_iff_of_mem_opcodeTable {row : OpcodeRow} (h : row ∈ opcodeTable)
    (w : RequestWord) : row.covers w = true ↔ row.op = (decodeWord w).op := by
  obtain ⟨hmask, hpattern⟩ := mask_pattern_of_mem_opcodeTable h
  have widen : Function.Injective (BitVec.setWidth 96 : BitVec 2 → RequestWord) := by decide
  rw [OpcodeRow.covers, beq_iff_eq, hmask, hpattern, and_opcodeMask, ← code_op_decodeWord,
    widen.eq_iff, Op.code_injective.eq_iff, eq_comm]

/-- The opcode table has one row for each operation (30_encoding.md R61). -/
theorem filter_op_opcodeTable (op : Op) :
    ∃ row, opcodeTable.filter (fun r => decide (r.op = op)) = [row] ∧ row.op = op := by
  cases op <;> exact ⟨_, rfl, rfl⟩

/-- The residue modulo 4 of a word names its operation (30_encoding.md R61). -/
theorem decodeWord_of_mod_four {w : RequestWord} {op : Op} (h : w.toNat % 4 = op.code.toNat) :
    decodeWord w = Instr.ofOp op (decodeWord w).request := by
  have hop : (decodeWord w).op = op := by
    apply Op.code_injective
    rw [code_op_decodeWord, ← BitVec.toNat_inj, toNat_lowBits, h]
  rw [← hop, Instr.ofOp_op_request]

/-- Settles O1: decoding takes each field from its bits. -/
theorem requestFieldsStandAtTheirBits : Obligations.RequestFieldsStandAtTheirBits := by
  intro w
  rw [request_decodeWord, code_op_decodeWord]
  refine ⟨rfl, rfl, rfl, rfl, rfl, fun i hi => ?_, rfl, rfl, rfl⟩
  simp [decodeRequest, hi]

/-- Settles O2: the rows that cover a word are those of the operation it decodes to, and the table
has one of them. -/
theorem everyWordSelectsExactlyOneOperation : Obligations.EveryWordSelectsExactlyOneOperation := by
  intro w
  have rows : opcodeTable.filter (fun r => r.covers w) =
      opcodeTable.filter (fun r => decide (r.op = (decodeWord w).op)) := by
    refine List.filter_congr fun row h => ?_
    rw [Bool.eq_iff_iff, covers_iff_of_mem_opcodeTable h, decide_eq_true_iff]
  rw [rows]
  exact ⟨filter_op_opcodeTable _, decodeWord_of_mod_four (op := .validate),
    decodeWord_of_mod_four (op := .encode), decodeWord_of_mod_four (op := .decode),
    decodeWord_of_mod_four (op := .reserved3)⟩

end Sys2Proof

/-! The status word (30_encoding.md R70): fields placed side by side, codes each for its one name,
and the statement about them. -/

namespace Sys2Proof.Machine

/-- The bits at which a field was placed are the field. -/
theorem extractLsb'_placeWord_same {n : Nat} (lo : Nat) (v : BitVec n) (h : lo + n ≤ 32) :
    (placeWord lo v).extractLsb' lo n = v := by
  ext k hk
  simp [placeWord, hk, show lo + k < 32 by omega]

/-- The bits beside a placed field are 0. -/
theorem extractLsb'_placeWord_of_disjoint {n : Nat} (lo lo' n' : Nat) (v : BitVec n)
    (h : lo + n ≤ lo' ∨ lo' + n' ≤ lo) : (placeWord lo v).extractLsb' lo' n' = 0#n' := by
  ext k hk
  have outside (below : lo ≤ lo' + k) : v.getLsbD (lo' + k - lo) = false :=
    BitVec.getLsbD_of_ge v _ (by omega)
  simp +contextual [placeWord, outside]

theorem getLsbD_eq_of_extractLsb'_one {w : Word} {k : Nat} {b : Bool}
    (h : w.extractLsb' k 1 = BitVec.ofBool b) : w.getLsbD k = b := by
  simpa using congrArg (BitVec.getLsbD · 0) h

/-- The fields of the status word lie side by side, so each is read back from its bits, and the bits
above them are 0 (30_encoding.md R70). -/
theorem extractLsb'_statusWord (r : Response) :
    r.statusWord.extractLsb' 0 3 = r.status.code ∧
    r.statusWord.extractLsb' 3 2 = fieldCode r.field ∧
    r.statusWord.extractLsb' 5 1 = BitVec.ofBool r.frameValid ∧
    r.statusWord.extractLsb' 6 1 = BitVec.ofBool r.cmdValid ∧
    r.statusWord.extractLsb' 7 1 = BitVec.ofBool r.state ∧
    r.statusWord.extractLsb' 8 5 = r.systemcode ∧
    r.statusWord.extractLsb' 13 5 = r.unitcode ∧
    r.statusWord.extractLsb' 18 2 = r.op.code ∧
    r.statusWord.extractLsb' 20 12 = 0#12 := by
  simp [Response.statusWord, BitVec.extractLsb'_or, extractLsb'_placeWord_same,
    extractLsb'_placeWord_of_disjoint]

/-- Each outcome has its own code (10_state.md R25). -/
theorem Status.code_injective : Function.Injective Status.code := by
  intro a b h
  cases a <;> cases b <;> trivial

/-- Each field, and naming none, has its own code (10_state.md R25). -/
theorem fieldCode_injective : Function.Injective fieldCode := by
  rintro (_ | a) (_ | b) h
  · rfl
  · cases b <;> cases h
  · cases a <;> cases h
  · cases a <;> cases b <;> trivial

/-- Word `i + 1` of a packed response is slot `i` (30_encoding.md R70). -/
theorem getElem?_words_succ (r : Response) (i : Nat) (h : i < 50) :
    r.words[i + 1]? = some r.frame[i] := by
  simp [Response.words, h]

/-- Settles O7: the fields are read back from the status word, and a code tells which name it is
of. -/
theorem statusWordFieldsStandAtTheirBits : Obligations.StatusWordFieldsStandAtTheirBits := by
  intro r
  obtain ⟨status, field, frameValid, cmdValid, state, sys, unit, op, rest⟩ :=
    extractLsb'_statusWord r
  have statusIs (x : Status) : r.statusWord.extractLsb' 0 3 = x.code ↔ r.status = x := by
    rw [status, Status.code_injective.eq_iff]
  have fieldIs (x : Option CommandField) :
      r.statusWord.extractLsb' 3 2 = fieldCode x ↔ r.field = x := by
    rw [field, fieldCode_injective.eq_iff]
  have opIs (x : Op) : r.statusWord.extractLsb' 18 2 = x.code ↔ r.op = x := by
    rw [op, Op.code_injective.eq_iff]
  exact ⟨status, field, getLsbD_eq_of_extractLsb'_one frameValid,
    getLsbD_eq_of_extractLsb'_one cmdValid, getLsbD_eq_of_extractLsb'_one state, sys, unit, op,
    rest, statusIs .ok, statusIs .missingField, statusIs .outOfRange, statusIs .suppressed,
    statusIs .illegalOp, fieldIs (some .systemcode), fieldIs (some .unitcode),
    fieldIs (some .state), fieldIs none, opIs .validate, opIs .encode, opIs .decode,
    opIs .reserved3, length_words r, rfl, getElem?_words_succ r⟩

end Sys2Proof.Machine

/-! The binary expansions (30_encoding.md R66, R67): `fromBits` as a binary number and as a weighted
sum, and the statement about them. -/

namespace Sys2Proof.Machine

/-- `fromBits` reads the elements from `lo` to `hi` as one binary number. -/
theorem fromBits_eq_toNat (bits : BitVector) (lo hi : Nat) :
    fromBits bits lo hi = (bits.extractLsb' lo (hi + 1 - lo)).toNat := by
  rw [fromBits, BitVec.extractLsb'_toNat]
  induction hi + 1 - lo with
  | zero => simp [Nat.mod_one]
  | succ n ih =>
    rw [List.sum_range_succ, ih, Nat.mod_pow_succ, ← Nat.toNat_testBit, Nat.testBit_shiftRight,
      Nat.mul_comm]
    rfl

theorem fromBits_lt (bits : BitVector) (lo hi : Nat) : fromBits bits lo hi < 2 ^ (hi + 1 - lo) := by
  rw [fromBits_eq_toNat]
  exact BitVec.isLt _

/-- Element `i` of a range that begins at `lo` has weight `2 ^ (i - lo)`. -/
theorem fromBits_eq_sum_Icc (bits : BitVector) (lo hi : Nat) :
    fromBits bits lo hi = ∑ i ∈ Finset.Icc lo hi, (bits.getLsbD i).toNat * 2 ^ (i - lo) := by
  rw [← Finset.Ico_add_one_right_eq_Icc, Finset.sum_Ico_eq_sum_range]
  simp only [Nat.add_sub_cancel_left]
  rfl

/-- Settles O8: the list and the sum are those of the definitions, and a number of five bits is
below 32. -/
theorem bitExpansionsAreLeastSignificantFirst :
    Obligations.BitExpansionsAreLeastSignificantFirst := by
  refine ⟨fun n => rfl, fromBits_eq_sum_Icc, fun bits lo => ?_⟩
  have h := fromBits_lt bits lo (lo + 4)
  rwa [show lo + 4 + 1 - lo = 5 by omega] at h

end Sys2Proof.Machine

/-! The built frame (30_encoding.md R64; 41_encoder.md R122 to R125): what each slot holds, and the
statement about the windows and the footer. -/

namespace Sys2Proof.Machine

theorem windowBit_sys (sys unit : Code) (state : Bool) {i : Nat} (h : i < 5) :
    windowBit sys unit state i = sys.getLsbD i := if_pos h

theorem windowBit_unit (sys unit : Code) (state : Bool) {i : Nat} (h : i < 5) :
    windowBit sys unit state (5 + i) = unit.getLsbD i := by
  simp [windowBit, show 5 + i < 10 by omega]

/-- A slot of a built frame before the footer is that of the pattern of its window's bit. -/
theorem getElem_buildFrame (cfg : Config) (c : Command) (i : Nat) (h : i < 48) :
    (buildFrame cfg c)[i] =
      if windowBit c.sys c.unit (c.state == .on) (i / 4) then highSlot cfg (i % 4)
      else lowSlot cfg (i % 4) := by
  have hw : i / 4 < 12 := by omega
  have unit := writeField_getElem cfg 5 c.unit
  have sys := writeField_getElem cfg 0 c.sys
  rw [buildFrame, writeFooter_getElem, if_neg (by omega), if_neg (by omega), writeState_getElem,
    unitOffset, sysOffset, unit, sys, fillLow_getElem, if_pos hw]
  generalize i / 4 = w at hw
  have field : w < 5 ∨ (∃ k < 5, w = 5 + k) ∨ w = 10 ∨ w = 11 := by
    by_cases hsys : w < 5
    · exact .inl hsys
    · by_cases hunit : w < 10
      · exact .inr (.inl ⟨w - 5, by omega, by omega⟩)
      · omega
  rcases field with hsys | ⟨k, hk, rfl⟩ | rfl | rfl
  · rw [windowBit_sys _ _ _ hsys, if_neg (by omega), if_neg (by omega)]
    simp [hsys]
  · rw [windowBit_unit _ _ _ hk, if_neg (by omega)]
    simp [hk, show 5 + k < 10 by omega]
  · rfl
  · simp [windowBit]

theorem getElem_buildFrame_48 (cfg : Config) (c : Command) :
    (buildFrame cfg c)[48] = shortSlot cfg := writeFooter_getElem ..

theorem getElem_buildFrame_49 (cfg : Config) (c : Command) :
    (buildFrame cfg c)[49] = footerSlot cfg := writeFooter_getElem ..

/-- Slot `k` of window `w`, where the bit of the window is `b`. -/
theorem getElem?_toList_buildFrame (cfg : Config) {c : Command} {w : Nat} {b : Bool} (hw : w < 12)
    (hb : windowBit c.sys c.unit (c.state == .on) w = b) {k : Nat} (hk : k < 4) :
    (buildFrame cfg c).toList[4 * w + k]? = some (if b then highSlot cfg k else lowSlot cfg k) := by
  have hi : 4 * w + k < 48 := by omega
  have hdiv : (4 * w + k) / 4 = w := by omega
  have hmod : (4 * w + k) % 4 = k := by omega
  rw [Vector.getElem?_toList, Vector.getElem?_eq_getElem (by omega), getElem_buildFrame cfg c _ hi,
    hdiv, hmod, hb]

/-- The four slots of window `w`, where the bit of the window is `b`. -/
theorem slots_window_buildFrame (cfg : Config) {c : Command} {lo w : Nat} {b : Bool}
    (hlo : lo = 4 * w) (hw : w < 12) (hb : windowBit c.sys c.unit (c.state == .on) w = b) :
    [(buildFrame cfg c).toList[lo]?, (buildFrame cfg c).toList[lo + 1]?,
      (buildFrame cfg c).toList[lo + 2]?, (buildFrame cfg c).toList[lo + 3]?] =
    (if b then highPattern cfg else lowPattern cfg).map some := by
  have slot {k : Nat} := getElem?_toList_buildFrame cfg hw hb (k := k)
  have slot0 := slot (k := 0) (by decide)
  rw [Nat.add_zero] at slot0
  rw [hlo, slot0, slot (by decide), slot (by decide), slot (by decide)]
  cases b <;> rfl

/-- Settles O12: a window's slots are those of its bit's pattern, the last two slots are the
footer's, and no slot wraps. -/
theorem encodedWindowsFollowTheCommand : Obligations.EncodedWindowsFollowTheCommand := by
  intro cfg c
  obtain ⟨short, -, footer⟩ := slot_toNat cfg
  refine ⟨Vector.length_toList, fun i hi => ?_, fun i hi => ?_, ?_, ?_,
    getElem_buildFrame_48 cfg c, ?_, ?_⟩
  · exact slots_window_buildFrame cfg rfl (by omega) (windowBit_sys _ _ _ hi)
  · exact slots_window_buildFrame cfg (by omega) (by omega) (windowBit_unit _ _ _ hi)
  · exact slots_window_buildFrame cfg (w := 10) rfl (by decide) rfl
  · exact slots_window_buildFrame cfg (w := 11) rfl (by decide) rfl
  · rw [getElem_buildFrame_48, short]
  · rw [getElem_buildFrame_49, footer]

end Sys2Proof.Machine

/-! What an operation reads of its request (30_encoding.md R62). -/

namespace Sys2Proof.Machine

/-- The validator reads the presence bits, the indicators and the raw candidates that are
present. -/
theorem validate_congr {q p : Request} (hsysP : q.sysP = p.sysP) (hunitP : q.unitP = p.unitP)
    (hon : q.on = p.on) (hoff : q.off = p.off) (hsys : q.sysP = true → q.rawSys = p.rawSys)
    (hunit : q.unitP = true → q.rawUnit = p.rawUnit) : validate q = validate p := by
  rw [validate, validate, ← hsysP, ← hunitP, ← hon, ← hoff]
  cases hs : q.sysP with
  | false => simp
  | true =>
    cases hu : q.unitP with
    | false => simp
    | true => rw [hsys hs, hunit hu]

/-- Settles O23: VALIDATE and ENCODE go by what the validator answers, DECODE by `BITS`, and the
reserved operation by nothing. -/
theorem operationsReadOnlyTheirOperands : Obligations.OperationsReadOnlyTheirOperands := by
  intro q p s
  refine ⟨?_, fun h => ?_, rfl⟩
  · rintro ⟨hsysP, hunitP, hon, hoff, hsys, hunit⟩
    have h := validate_congr hsysP hunitP hon hoff hsys hunit
    exact ⟨by simp only [exec, execValidate, h], by simp only [exec, execEncode, h]⟩
  · simp only [exec, execDecode, h]

end Sys2Proof.Machine

/-! The validator (40_validator.md): what it answers in each case, how VALIDATE and ENCODE end by
it, and the statements about them. -/

namespace Sys2Proof.Machine

section
variable {q : Request}

theorem validate_of_no_systemcode (hsys : q.sysP = false) :
    validate q = .error (.missingField .systemcode) := if_pos hsys

theorem validate_of_no_unitcode (hsys : q.sysP = true) (hunit : q.unitP = false) :
    validate q = .error (.missingField .unitcode) := by
  simp [validate, hsys, hunit]

theorem validate_of_no_state (hsys : q.sysP = true) (hunit : q.unitP = true)
    (hstate : q.on = q.off) : validate q = .error (.missingField .state) := by
  simp [validate, hsys, hunit, hstate]

/-- With every field present the ranges decide, the systemcode first (40_validator.md R102 to
R104). -/
theorem validate_of_present (h : q.sysP = true ∧ q.unitP = true ∧ q.on ≠ q.off) :
    validate q =
      if 0 ≤ q.rawSys.toInt ∧ q.rawSys.toInt ≤ 31 then
        if 0 ≤ q.rawUnit.toInt ∧ q.rawUnit.toInt ≤ 31 then
          .ok ⟨q.rawSys.setWidth 5, q.rawUnit.setWidth 5, if q.on then .on else .off⟩
        else .error (.outOfRange .unitcode)
      else .error (.outOfRange .systemcode) := by
  obtain ⟨hsys, hunit, hstate⟩ := h
  simp only [validate, hsys, hunit, hstate, ← Bool.not_eq_true, inCodeRange_eq_true, ite_not,
    if_true, if_false]

/-- Operands that are present and in range are a command (40_validator.md R105). -/
theorem validate_of_inRange (h : q.sysP = true ∧ q.unitP = true ∧ q.on ≠ q.off)
    (hsys : 0 ≤ q.rawSys.toInt ∧ q.rawSys.toInt ≤ 31)
    (hunit : 0 ≤ q.rawUnit.toInt ∧ q.rawUnit.toInt ≤ 31) :
    validate q = .ok ⟨q.rawSys.setWidth 5, q.rawUnit.setWidth 5, if q.on then .on else .off⟩ := by
  rw [validate_of_present h, if_pos hsys, if_pos hunit]

/-- VALIDATE and ENCODE raise the cause the validator names (40_validator.md R110,
41_encoder.md R130). -/
theorem exec_of_validate_error {i : Instr} {c : Cause} (hi : i = .validate q ∨ i = .encode q)
    (h : validate q = .error c) (s : State) : exec i s = .next (raise i.op c s) := by
  rcases hi with rfl | rfl
  · simp only [exec, execValidate, h, Instr.op]
  · simp only [exec, execEncode, h, Instr.op]

theorem exec_validate_of_ok {c : Command} (h : validate q = .ok c) (s : State) :
    exec (.validate q) s = .next (respond (commandResponse .validate c) s) := by
  simp only [exec, execValidate, h]

theorem exec_encode_of_ok {c : Command} (h : validate q = .ok c) (s : State) :
    exec (.encode q) s = .next (respond (frameResponse .encode c (buildFrame s.config c)) s) := by
  simp only [exec, execEncode, h]

/-- VALIDATE and ENCODE of a command answer OK and record nothing. -/
theorem exec_of_validate_ok {i : Instr} {c : Command} (hi : i = .validate q ∨ i = .encode q)
    (h : validate q = .ok c) (s : State) :
    ∃ r : Response, r.status = .ok ∧ exec i s = .next (respond r s) := by
  rcases hi with rfl | rfl
  · exact ⟨_, rfl, exec_validate_of_ok h s⟩
  · exact ⟨_, rfl, exec_encode_of_ok h s⟩

end

/-- `STATE` of the command's switch action is `ON` (40_validator.md R105, 43_message.md R170). -/
@[simp] theorem OnOff.bit_ite (on : Bool) : (if on then OnOff.on else .off).bit = on := by
  cases on <;> rfl

/-- The low five bits of a raw candidate in range are its value (40_validator.md R105). -/
theorem toNat_extractLsb_of_inRange {v : RawCode} (h0 : 0 ≤ v.toInt) (h31 : v.toInt ≤ 31) :
    ((v.extractLsb 4 0).toNat : Int) = v.toInt := by
  have low : (v.extractLsb 4 0).toNat = v.toNat % 32 := by simp
  have bound : v.toNat < 2 ^ 32 := v.isLt
  rw [BitVec.toInt_eq_toNat_cond] at h0 h31 ⊢
  split_ifs at * <;> omega

/-- Settles O9: the validator names the first failure, which the operation raises, or answers a
command, which the operation answers OK. -/
theorem firstValidationFailureIsReported : Obligations.FirstValidationFailureIsReported := by
  intro q s i hi fails present inRange
  have raises {c : Cause} (h : validate q = .error c) := exec_of_validate_error hi h s
  refine ⟨fun hsys => raises (validate_of_no_systemcode hsys),
    fun hsys hunit => raises (validate_of_no_unitcode hsys hunit),
    fun hsys hunit hstate => raises (validate_of_no_state hsys hunit hstate),
    fun hp hsys => raises (c := .outOfRange .systemcode) ?_,
    fun hp hsys hunit => raises (c := .outOfRange .unitcode) ?_,
    fun hp hsys hunit => exec_of_validate_ok hi (validate_of_inRange hp hsys hunit) s⟩
  · rw [validate_of_present hp, if_neg hsys]
  · rw [validate_of_present hp, if_pos hsys, if_neg hunit]

/-- Settles O10: the validator answers the command, whose codes are the low five bits of candidates
below 32. -/
theorem validateAnswersTheCommand : Obligations.ValidateAnswersTheCommand := by
  intro q s hsysP hunitP hstate hsys0 hsys31 hunit0 hunit31
  have command :=
    validate_of_inRange ⟨hsysP, hunitP, hstate⟩ ⟨hsys0, hsys31⟩ ⟨hunit0, hunit31⟩
  refine ⟨?_, toNat_extractLsb_of_inRange hsys0 hsys31, toNat_extractLsb_of_inRange hunit0 hunit31⟩
  rw [exec_validate_of_ok command, respond, commandResponse, OnOff.bit_ite]
  rfl

end Sys2Proof.Machine

/-! The order of the writes to a frame (41_encoder.md R121, R126): the field writes touch different
windows, and the slots the fill leaves are those of the footer. -/

namespace Sys2Proof.Machine

/-- The systemcode write sets windows 0 to 4 (41_encoder.md R122). -/
theorem writeField_sysOffset_getElem (cfg : Config) (n : Code) (f : Frame) (i : Nat) (h : i < 50) :
    (writeField cfg sysOffset n f)[i] =
      if i / 4 < 5 ∧ n.getLsbD (i / 4) then highSlot cfg (i % 4) else f[i] := by
  have write := writeField_getElem cfg 0 n f i h
  simpa only [sysOffset, Nat.mul_zero, Nat.zero_le, true_and, Nat.zero_add, Nat.sub_zero] using write

/-- The unitcode write sets windows 5 to 9 (41_encoder.md R123). -/
theorem writeField_unitOffset_getElem (cfg : Config) (n : Code) (f : Frame) (i : Nat) (h : i < 50) :
    (writeField cfg unitOffset n f)[i] =
      if 5 ≤ i / 4 ∧ i / 4 < 10 ∧ n.getLsbD (i / 4 - 5) then highSlot cfg (i % 4) else f[i] :=
  writeField_getElem cfg 5 n f i h

theorem writeField_sys_unit_comm (cfg : Config) (m n : Code) (f : Frame) :
    writeField cfg sysOffset m (writeField cfg unitOffset n f) =
      writeField cfg unitOffset n (writeField cfg sysOffset m f) := by
  ext i h : 1
  simp only [writeField_sysOffset_getElem, writeField_unitOffset_getElem]
  exact ite_ite_comm _ _ _ _ fun ⟨hsys, _⟩ ⟨hunit, _⟩ => by omega

theorem writeField_sys_writeState_comm (cfg : Config) (n : Code) (x : OnOff) (f : Frame) :
    writeField cfg sysOffset n (writeState cfg x f) =
      writeState cfg x (writeField cfg sysOffset n f) := by
  ext i h : 1
  simp only [writeField_sysOffset_getElem, writeState_getElem]
  exact ite_ite_comm _ _ _ _ fun ⟨hsys, _⟩ ⟨hstate, _⟩ => by omega

theorem writeField_unit_writeState_comm (cfg : Config) (n : Code) (x : OnOff) (f : Frame) :
    writeField cfg unitOffset n (writeState cfg x f) =
      writeState cfg x (writeField cfg unitOffset n f) := by
  ext i h : 1
  simp only [writeField_unitOffset_getElem, writeState_getElem]
  exact ite_ite_comm _ _ _ _ fun ⟨_, hunit, _⟩ ⟨hstate, _⟩ => by omega

/-- The fill overwrites the windows and the footer the two slots after them, so nothing of the
starting frame is left (41_encoder.md R121, R125). -/
theorem writes_fillLow_eq_buildFrame (cfg : Config) (c : Command) (f : Frame) :
    writeFooter cfg (writeState cfg c.state (writeField cfg unitOffset c.unit
      (writeField cfg sysOffset c.sys (fillLow cfg f)))) = buildFrame cfg c := by
  ext i h : 1
  by_cases window : i < 48
  · have filled (g : Frame) : (fillLow cfg g)[i] = lowSlot cfg (i % 4) := by
      rw [fillLow_getElem, if_pos (by omega)]
    simp only [buildFrame, writeFooter_getElem, writeState_getElem, writeField_unitOffset_getElem,
      writeField_sysOffset_getElem, filled]
  · have footer : i = 48 ∨ i = 49 := by omega
    rcases footer with rfl | rfl
    · rw [getElem_buildFrame_48, writeFooter_getElem, if_pos rfl]
    · rw [getElem_buildFrame_49, writeFooter_getElem, if_neg (by decide), if_pos rfl]

/-- Settles O13: no two field writes set a slot in common, and the fill and the footer set every
slot. -/
theorem fieldWritesAreIndependent : Obligations.FieldWritesAreIndependent := by
  intro cfg c f
  exact ⟨writeField_sys_unit_comm cfg c.sys c.unit f,
    writeField_sys_writeState_comm cfg c.sys c.state f,
    writeField_unit_writeState_comm cfg c.unit c.state f,
    writes_fillLow_eq_buildFrame cfg c f⟩

end Sys2Proof.Machine

/-! The bit decoder (42_decoder.md): what a vector's code fields weigh and when the unitcode is 0, how
DECODE ends in each case, and the statements about it. -/

namespace Sys2Proof.Machine

/-- The elements from `lo` to `lo + 4` with the weights of R151 and R152. -/
theorem toNat_extractLsb'_five (bits : BitVector) (lo : Nat) :
    (bits.extractLsb' lo 5).toNat =
      (bits.getLsbD lo).toNat + 2 * (bits.getLsbD (lo + 1)).toNat +
        4 * (bits.getLsbD (lo + 2)).toNat + 8 * (bits.getLsbD (lo + 3)).toNat +
        16 * (bits.getLsbD (lo + 4)).toNat := by
  rw [toNat_code]
  simp only [BitVec.getLsbD_extractLsb', Nat.reduceLT, decide_true, Bool.true_and, Nat.add_zero]
  omega

/-- The unitcode is 0 where elements 5 to 9 are all 0 (42_decoder.md R154). -/
theorem extractLsb_unit_eq_zero_iff (bits : BitVector) :
    bits.extractLsb 9 5 = 0#5 ↔ ∀ i, 5 ≤ i → i ≤ 9 → bits.getLsbD i = false := by
  constructor
  · intro h i h5 h9
    obtain ⟨k, rfl⟩ := Nat.exists_eq_add_of_le h5
    have hk : k < 5 := by omega
    simpa [hk] using congrArg (BitVec.getLsbD · k) h
  · intro h
    ext k hk
    simpa [hk] using h (5 + k) (by omega) (by omega)

/-- A vector with unitcode 0 is suppressed (42_decoder.md R154). -/
theorem exec_decode_of_unit_eq_zero {q : Request} (h : q.bits.extractLsb 9 5 = 0#5) (s : State) :
    exec (.decode q) s = .next (raise .decode .suppressedDecode s) := by
  rcases decodeBits_cases q.bits with ⟨-, hbits⟩ | ⟨hunit, -⟩
  · simp only [exec, execDecode, hbits]
  · exact absurd h hunit

/-- Any other vector is answered with its command (42_decoder.md R151 to R153). -/
theorem exec_decode_of_unit_ne_zero {q : Request} (h : q.bits.extractLsb 9 5 ≠ 0#5) (s : State) :
    exec (.decode q) s = .next (respond (commandResponse .decode ⟨q.bits.extractLsb 4 0,
      q.bits.extractLsb 9 5, if q.bits.getLsbD 11 = false then .on else .off⟩) s) := by
  rcases decodeBits_cases q.bits with ⟨hunit, -⟩ | ⟨-, hbits⟩
  · exact absurd hunit h
  · simp only [exec, execDecode, hbits]

/-- `STATE` of a decoded command is 1 where element 11 is 0 (42_decoder.md R153). -/
theorem OnOff.bit_ite_eq_false (b : Bool) :
    (if b = false then OnOff.on else .off).bit = (b == false) := by
  cases b <;> rfl

/-- A suppressed DECODE leaves the state's diagnostic output as it was (60_exceptions.md R204). -/
theorem raise_suppressedDecode (op : Op) (s : State) :
    raise op .suppressedDecode s = respond (errorResponse op .suppressed none) s := by
  rw [raise, emitDiag, Cause.diag, List.append_nil]
  rfl

/-- Settles O16: the two code fields have the weights of a five-bit number, and the command they
give is the answer. -/
theorem decodeAnswersTheCommandOfTheVector : Obligations.DecodeAnswersTheCommandOfTheVector := by
  intro q s b hunit
  refine ⟨q.bits.extractLsb 4 0, q.bits.extractLsb 9 5, toNat_extractLsb'_five q.bits 0,
    toNat_extractLsb'_five q.bits 5, ?_⟩
  rw [exec_decode_of_unit_ne_zero hunit, respond, commandResponse, OnOff.bit_ite_eq_false]
  rfl

/-- Settles O17: elements 5 to 9 are the unitcode, and the cause raised for unitcode 0 leaves no
record. -/
theorem unitZeroIsSuppressedSilently : Obligations.UnitZeroIsSuppressedSilently := by
  intro q s h
  refine ⟨?_, rfl, rfl⟩
  rw [exec_decode_of_unit_eq_zero ((extractLsb_unit_eq_zero_iff q.bits).mpr h),
    raise_suppressedDecode]
  rfl

end Sys2Proof.Machine

/-! Exceptions (60_exceptions.md R201, R205, R207): all that raising a cause changes, and the
statements about it. -/

namespace Sys2Proof.Machine

/-- The only effects of raising a cause: its error response becomes pending and its records are
appended (60_exceptions.md R207). -/
theorem raise_eq (op : Op) (c : Cause) (s : State) :
    raise op c s = { s with
      pending := some (errorResponse op c.status c.field), diag := s.diag ++ c.diag } := rfl

/-- A cause without a record leaves only its error response (60_exceptions.md R204, R205). -/
theorem raise_of_diag_eq_nil {c : Cause} (h : c.diag = []) (op : Op) (s : State) :
    raise op c s = { s with pending := some (errorResponse op c.status c.field) } := by
  rw [raise_eq, h, List.append_nil]

/-- Settles O20: the operation raises `IllegalOp`, a cause without a record, and the status word is
computed from the error response. -/
theorem reservedOperationAnswersIllegalOp : Obligations.ReservedOperationAnswersIllegalOp := by
  intro q s
  refine ⟨errorResponse .reserved3 .illegalOp none, ?_, rfl, by decide⟩
  rw [exec_reserved3_eq, raise_of_diag_eq_nil (c := .illegalOp) rfl]
  rfl

/-- Settles O21: the response is the error response of the cause, with a blank frame, and the cause
decides the record. -/
theorem raisingCompletesWithTheErrorResponse :
    Obligations.RaisingCompletesWithTheErrorResponse := by
  intro op c s
  refine ⟨errorResponse op c.status c.field, raise_eq op c s, rfl, rfl, rfl, rfl, rfl, rfl, rfl,
    rfl, getElem_blankFrame, ?_, ?_, ?_⟩
  · rintro f rfl
    rfl
  · rintro f rfl
    rfl
  · rintro (rfl | rfl) <;> rfl

end Sys2Proof.Machine

/-! The parameters (70_reset_and_hazards.md R250): no operation, no turn of the engine and no step
writes the configuration. -/

namespace Sys2Proof.Machine

/-- An operation only answers and records (60_exceptions.md R207). -/
theorem exec_keeps_config {i : Instr} {s t : State} (h : exec i s = .next t) :
    t.config = s.config := by
  obtain ⟨r, ds, e⟩ := exec_next i s
  obtain rfl := Host.Outcome.next.inj (e.symm.trans h)
  rw [respond_config, emitDiag_config]

theorem engineTurn_keeps_config {s t : State} (h : engineTurn s = .next t) :
    t.config = s.config := by
  rcases engineTurn_next_cases h with ⟨w, -, -, hx⟩ | rfl
  · rw [exec_keeps_config hx, withdrawRequest_config]
  · rfl

/-- Settles O34: a step is a turn of the engine, an update of other fields, or a fault. -/
theorem configurationIsFixedForLife : Obligations.ConfigurationIsFixedForLife := by
  intro s t h
  rcases step_cases s with ⟨-, e⟩ | ⟨rest, -, e⟩ | ⟨w, rest, -, e⟩ | ⟨rest, -, e⟩ |
    ⟨r, rest, -, -, e⟩ | ⟨rest, -, -, e⟩ | ⟨rest, -, e⟩ | ⟨r, rest, -, -, e⟩ | ⟨rest, -, -, e⟩ |
    ⟨rest, -, e⟩ <;> rw [e] at h
  · exact engineTurn_keeps_config h
  · exact engineTurn_keeps_config (s := { s with script := rest }) h
  · cases h; exact offerRequest_config _ w
  · cases h; exact withdrawRequest_config _
  · cases h; exact takeResponse_config _ r
  · exact engineTurn_keeps_config h
  · cases h; exact resetEngine_config _
  · cases h; exact noteReading_config _ _
  · cases h
  · cases h; exact readMetadata_config _

end Sys2Proof.Machine

/-! The request word packed and read back (30_encoding.md R60; 20_memory.md R45): a field placed beside
others is read back from its bits, neighbouring fields of one word join, and the statements about
them. -/

namespace Sys2Proof

/-- The bits at which a field was placed are the field. -/
theorem extractLsb'_place_same {n : Nat} (lo : Nat) (v : BitVec n) (h : lo + n ≤ 96) :
    (place lo v).extractLsb' lo n = v := by
  ext k hk
  simp [hk, show lo + k < 96 by omega]

/-- The bits beside a placed field are 0. -/
theorem extractLsb'_place_of_disjoint {n : Nat} (lo lo' n' : Nat) (v : BitVec n)
    (h : lo + n ≤ lo' ∨ lo' + n' ≤ lo) : (place lo v).extractLsb' lo' n' = 0#n' := by
  ext k hk
  have outside (below : lo ≤ lo' + k) : v.getLsbD (lo' + k - lo) = false :=
    BitVec.getLsbD_of_ge v _ (by omega)
  simp +contextual [outside]

/-- The fields of a packed request lie side by side, so each is read back from its bits
(30_encoding.md R60). -/
theorem decodeRequest_encode (i : Instr) : decodeRequest (encode i) = i.request := by
  cases hq : i.request
  simp [decodeRequest, encode, hq, BitVec.extractLsb'_or, extractLsb'_place_same,
    extractLsb'_place_of_disjoint]

theorem decodeWord_encode (i : Instr) : decodeWord (encode i) = i := by
  rw [decodeWord, Laws.OpcodeBits.lowBits i, decodeRequest_encode, Op.ofCode_code,
    Instr.ofOp_op_request]

/-- The `n` low bits of a word and the `m` above them are its `n + m` low bits. -/
theorem place_or_place (w : RequestWord) (n m : Nat) :
    place 0 (w.extractLsb' 0 n) ||| place n (w.extractLsb' n m) =
      place 0 (w.extractLsb' 0 (n + m)) := by
  ext k hk
  by_cases low : k < n
  · simp [low, show ¬ n ≤ k by omega, show k < n + m by omega]
  · have above : n + (k - n) = k := by omega
    simp [show n ≤ k by omega, above, show k - n < m ↔ k < n + m by omega]

theorem place_whole (w : RequestWord) : place 0 (w.extractLsb' 0 96) = w := by
  ext k hk
  simp [hk]

theorem ofBool_getLsbD (w : RequestWord) (k : Nat) :
    BitVec.ofBool (w.getLsbD k) = w.extractLsb' k 1 := by
  ext j hj
  obtain rfl : j = 0 := by omega
  simp

/-- The fields of a decoded word, packed again, join to the word (30_encoding.md R60). -/
theorem encode_decodeWord (w : RequestWord) : encode (decodeWord w) = w := by
  simp only [encode, request_decodeWord, code_op_decodeWord, decodeRequest, ofBool_getLsbD,
    place_or_place]
  exact place_whole w

/-- Settles O3: packing places fields side by side that decoding reads from the same bits. -/
theorem requestRoundTrip : Obligations.RequestRoundTrip :=
  ⟨decodeWord_encode, encode_decodeWord⟩

/-- The twelve bytes of a word join to the word (20_memory.md R45). -/
theorem decodeBytes_requestBytes_append (w : RequestWord) (rest : List Byte) :
    decodeBytes (requestBytes w ++ rest) = .ok (decodeWord w, rest) := by
  simp only [requestBytes, List.range, List.range.loop, List.map, List.cons_append, List.nil_append,
    decodeBytes, Nat.reduceMul, place_or_place]
  rw [place_whole]

/-- Settles O41: twelve bytes are the word, which decodes to the operation it packs. -/
theorem bytesAfterARequestAreLeft : Obligations.BytesAfterARequestAreLeft := by
  refine ⟨decodeBytes_requestBytes_append, fun i rest => ?_⟩
  rw [encodeBytes, decodeBytes_requestBytes_append, decodeWord_encode]

/-- A table word of at most 96 bits decodes as the request it fills up to (notes/assumptions/8.md). -/
theorem decodeTableWord_of_le {nbits : Nat} (h : nbits ≤ 96) (w : Nat) :
    decodeTableWord nbits w = some (decodeWord (tableWord nbits w)) := by
  have bytes := decodeBytes_requestBytes_append (tableWord nbits w) []
  rw [List.append_nil] at bytes
  rw [decodeTableWord, if_pos h, bytes]

theorem decodeTableWord_eq_some {nbits w : Nat} {i : Instr} (h : decodeTableWord nbits w = some i) :
    decodeWord (tableWord nbits w) = i := by
  by_cases hn : nbits ≤ 96
  · rw [decodeTableWord_of_le hn] at h
    exact Option.some.inj h
  · rw [decodeTableWord, if_neg hn] at h
    cases h

/-- Fewer than twelve bytes are no request (30_encoding.md R60). -/
theorem decodeBytes_of_length_lt {bs : List Byte} (h : bs.length < 12) :
    decodeBytes bs = .error .truncatedRequest := by
  unfold decodeBytes
  split
  · simp only [List.length_cons] at h
    omega
  · rfl

/-- Settles O5: the words decode by computation, and decoding takes twelve bytes. -/
theorem writtenWordsDecodeToTheirRequests : Obligations.WrittenWordsDecodeToTheirRequests := by
  refine ⟨?_, ?_, ?_, ?_, fun bs => decodeBytes_of_length_lt⟩ <;>
    rw [decodeTableWord_of_le (by decide)] <;> decide

end Sys2Proof

/-! What the windows of a built frame tell (30_encoding.md R64, R74): the frame as its windows and
footer, how long it lasts, which command it is of, what its thresholding gives, and the statements
about them. -/

namespace Sys2Proof.Machine

/-- Each window of a built frame is the pattern of its bit (30_encoding.md R63, R64). -/
theorem window_buildFrame (cfg : Config) (c : Command) {w : Nat} (hw : w < 12) :
    window (buildFrame cfg c) w =
      if windowBit c.sys c.unit (c.state == .on) w then highPattern cfg else lowPattern cfg := by
  have slot {k : Nat} := getElem?_toList_buildFrame cfg hw (c := c) rfl (k := k)
  have slot0 := slot (k := 0) (by decide)
  rw [Nat.add_zero] at slot0
  simp only [window, slotWindow, Nat.zero_add, List.map_cons, List.map_nil, List.getD_eq_getElem?_getD,
    slot0, slot (k := 1) (by decide), slot (k := 2) (by decide), slot (k := 3) (by decide),
    Option.getD_some]
  cases windowBit c.sys c.unit (c.state == .on) w <;> rfl

theorem getD_toList (f : Frame) {i : Nat} (h : i < 50) : f.toList.getD i 0#32 = f[i] := by
  simp [h]

/-- A frame is its twelve windows and the footer, in order (30_encoding.md R64). -/
theorem toList_eq_windows (f : Frame) :
    f.toList = (List.range 12).flatMap (window f) ++ [f[48], f[49]] := by
  have slots : f.toList = (List.range 50).map fun i => f.toList.getD i 0#32 := by
    apply List.ext_getElem
    · simp
    · intro i h _
      rw [Vector.length_toList] at h
      rw [List.getElem_map, List.getElem_range, getD_toList f h, Vector.getElem_toList]
  have order : List.range 50 = (List.range 12).flatMap (slotWindow 0) ++ [48, 49] := rfl
  rw [slots, order, List.map_append, List.map_flatMap, List.map_cons, List.map_cons, List.map_nil,
    getD_toList f (by decide), getD_toList f (by decide)]
  rfl

/-- Both patterns last `8 × PLSLEN` (41_encoder.md R128). -/
theorem sum_pattern (cfg : Config) (b : Bool) :
    ((if b then highPattern cfg else lowPattern cfg).map BitVec.toNat).sum =
      8 * cfg.params.plslen := by
  obtain ⟨short, long, -⟩ := slot_toNat cfg
  cases b <;> simp [highPattern, lowPattern, short, long] <;> omega

theorem sum_window_buildFrame (cfg : Config) (c : Command) {w : Nat} (hw : w < 12) :
    ((window (buildFrame cfg c) w).map BitVec.toNat).sum = 8 * cfg.params.plslen := by
  rw [window_buildFrame cfg c hw, sum_pattern]

/-- Twelve windows and the footer (41_encoder.md R128). -/
theorem duration_buildFrame (cfg : Config) (c : Command) :
    duration (buildFrame cfg c) = (97 + cfg.params.pulseDiv) * cfg.params.plslen := by
  obtain ⟨short, -, footer⟩ := slot_toNat cfg
  have windows : (((List.range 12).flatMap (window (buildFrame cfg c))).map BitVec.toNat).sum =
      12 * (8 * cfg.params.plslen) := by
    rw [List.map_flatMap, List.flatMap_def, List.sum_flatten, List.map_map, Function.comp_def,
      List.map_congr_left fun w hw => sum_window_buildFrame cfg c (List.mem_range.mp hw),
      List.map_const', List.sum_replicate, List.length_range, smul_eq_mul]
  rw [duration, toList_eq_windows, List.map_append, List.sum_append, windows,
    getElem_buildFrame_48, getElem_buildFrame_49]
  simp only [List.map_cons, List.map_nil, List.sum_cons, List.sum_nil, short, footer]
  ring

/-- Settles O14: every window is one of two patterns that last the same. -/
theorem everyFrameLastsTheSame : Obligations.EveryFrameLastsTheSame := by
  intro cfg c
  exact ⟨fun w => sum_window_buildFrame cfg c, duration_buildFrame cfg c⟩

/-- `HIGH` and `LOW` differ, since `S` and `L` do in a legal configuration (30_encoding.md R63). -/
theorem highPattern_ne_lowPattern (cfg : Config) : highPattern cfg ≠ lowPattern cfg := by
  intro h
  obtain ⟨short, long, -⟩ := slot_toNat cfg
  have positive : 1 ≤ cfg.params.plslen := cfg.legal.1
  have same : shortSlot cfg = longSlot cfg := by
    obtain ⟨-, -, same, -⟩ := by simpa only [highPattern, lowPattern, List.cons.injEq] using h
    exact same
  rw [same, long] at short
  omega

/-- A window of a built frame is `HIGH` exactly where its bit is 1 (30_encoding.md R74). -/
theorem window_buildFrame_eq_high_iff (cfg : Config) (c : Command) {w : Nat} (hw : w < 12) :
    window (buildFrame cfg c) w = highPattern cfg ↔
      windowBit c.sys c.unit (c.state == .on) w = true := by
  rw [window_buildFrame cfg c hw]
  cases windowBit c.sys c.unit (c.state == .on) w with
  | true => simp
  | false => simp [(highPattern_ne_lowPattern cfg).symm]

/-- Element `k` of the thresholding of a frame (30_encoding.md R74). -/
theorem getLsbD_threshold (cfg : Config) (f : Frame) {k : Nat} (hk : k < 12) :
    (threshold cfg f).getLsbD k = decide (window f k = highPattern cfg) := by
  have fold (ws : List Nat) (b : BitVector) :
      (ws.foldl (fun b w => if window f w = highPattern cfg then b ||| 1#12 <<< w else b) b).getLsbD
        k = (b.getLsbD k || decide (k ∈ ws ∧ window f k = highPattern cfg)) := by
    induction ws generalizing b with
    | nil => simp
    | cons w ws ih =>
      rw [List.foldl_cons, ih]
      by_cases hw : k = w
      · subst hw
        by_cases high : window f k = highPattern cfg <;> simp [high, hk]
      · have other : (1#12 <<< w).getLsbD k = false := by
          simp [hk]
          omega
        by_cases high : window f w = highPattern cfg <;> simp [high, hw, other]
  rw [threshold, fold]
  simp [binLen, hk]

/-- The thresholding of a built frame gives the bits of its windows (30_encoding.md R64, R74). -/
theorem getLsbD_threshold_buildFrame (cfg : Config) (c : Command) {k : Nat} (hk : k < 12) :
    (threshold cfg (buildFrame cfg c)).getLsbD k =
      windowBit c.sys c.unit (c.state == .on) k := by
  rw [getLsbD_threshold cfg _ hk, Bool.eq_iff_iff, decide_eq_true_iff,
    window_buildFrame_eq_high_iff cfg c hk]

theorem sys_threshold_buildFrame (cfg : Config) (c : Command) :
    (threshold cfg (buildFrame cfg c)).extractLsb 4 0 = c.sys := by
  ext k hk
  have bit := getLsbD_threshold_buildFrame cfg c (k := k) (by omega)
  rw [windowBit_sys _ _ _ hk] at bit
  simpa [hk] using bit

theorem unit_threshold_buildFrame (cfg : Config) (c : Command) :
    (threshold cfg (buildFrame cfg c)).extractLsb 9 5 = c.unit := by
  ext k hk
  have bit := getLsbD_threshold_buildFrame cfg c (k := 5 + k) (by omega)
  rw [windowBit_unit _ _ _ hk] at bit
  simpa [hk] using bit

theorem state_threshold_buildFrame (cfg : Config) (c : Command) :
    (threshold cfg (buildFrame cfg c)).getLsbD 11 = c.state.bit := by
  rw [getLsbD_threshold_buildFrame cfg c (by decide)]
  cases c.state <;> rfl

theorem OnOff.bit_injective : Function.Injective OnOff.bit := by
  intro x y h
  cases x <;> cases y <;> trivial

/-- Settles O15: the thresholding of a frame gives the command's codes and state back. -/
theorem framesTellCommandsApart : Obligations.FramesTellCommandsApart := by
  intro cfg c d h
  have sys : c.sys = d.sys := by
    rw [← sys_threshold_buildFrame cfg c, h, sys_threshold_buildFrame]
  have unit : c.unit = d.unit := by
    rw [← unit_threshold_buildFrame cfg c, h, unit_threshold_buildFrame]
  have state : c.state = d.state := by
    apply OnOff.bit_injective
    rw [← state_threshold_buildFrame cfg c, h, state_threshold_buildFrame]
  change Command.mk c.sys c.unit c.state = d
  rw [sys, unit, state]

/-- The command of operands that are present and in range, with its codes as DECODE and the response
give them. -/
def inRangeCommand (q : Request) : Command :=
  ⟨q.rawSys.extractLsb 4 0, q.rawUnit.extractLsb 4 0, if q.on then .on else .off⟩

/-- ENCODE of operands that are present and in range answers their command and its frame
(41_encoder.md R130). -/
theorem exec_encode_of_inRange {q : Request} (h : q.sysP = true ∧ q.unitP = true ∧ q.on ≠ q.off)
    (hsys : 0 ≤ q.rawSys.toInt ∧ q.rawSys.toInt ≤ 31)
    (hunit : 0 ≤ q.rawUnit.toInt ∧ q.rawUnit.toInt ≤ 31) (s : State) :
    exec (.encode q) s = .next (respond (frameResponse .encode (inRangeCommand q)
      (buildFrame s.config (inRangeCommand q))) s) :=
  exec_encode_of_ok (validate_of_inRange h hsys hunit) s

/-- The bit of window `w` of a valid request's frame, as 41_encoder.md R127 writes it. -/
theorem windowBit_inRangeCommand (q : Request) {w : Nat} (hw : w < 12) :
    windowBit (inRangeCommand q).sys (inRangeCommand q).unit ((inRangeCommand q).state == .on) w =
      if w ≤ 4 then q.rawSys.getLsbD w else if w ≤ 9 then q.rawUnit.getLsbD (w - 5)
      else if w = 10 then false else q.on := by
  have state : ((if q.on then OnOff.on else .off) == .on) = q.on := by cases q.on <;> rfl
  by_cases hsys : w < 5
  · simp [windowBit, inRangeCommand, hsys, show w ≤ 4 by omega]
  by_cases hunit : w < 10
  · simp [windowBit, inRangeCommand, hsys, hunit, show ¬ w ≤ 4 by omega, show w ≤ 9 by omega,
      show w - 5 < 5 by omega]
  · obtain rfl | rfl : w = 10 ∨ w = 11 := by omega
    · rfl
    · simpa [windowBit, inRangeCommand] using state

/-- Slot `k` of the pattern of a bit, as a number: no slot wraps (41_encoder.md R127). -/
theorem toNat_patternSlot (cfg : Config) (b : Bool) {k : Nat} (hk : k < 4) :
    (if b then highSlot cfg k else lowSlot cfg k).toNat =
      if k = 0 then cfg.params.plslen
      else if k = 1 then 3 * cfg.params.plslen
      else if k = 2 then (if b then cfg.params.plslen else 3 * cfg.params.plslen)
      else (if b then 3 * cfg.params.plslen else cfg.params.plslen) := by
  obtain ⟨short, long, -⟩ := slot_toNat cfg
  obtain rfl | rfl | rfl | rfl : k = 0 ∨ k = 1 ∨ k = 2 ∨ k = 3 := by omega
  all_goals cases b <;> simp [highSlot, lowSlot, short, long]

/-- Settles O11: the frame answered is the one built for the validated command, whose slots are those
of the bits' patterns and do not wrap. -/
theorem encodeAnswersTheClosedFormFrame : Obligations.EncodeAnswersTheClosedFormFrame := by
  intro q s hsysP hunitP hstate hsys0 hsys31 hunit0 hunit31 plslen bit
  obtain ⟨short, -, footer⟩ := slot_toNat s.config
  refine ⟨buildFrame s.config (inRangeCommand q), ?_, fun i hi => ?_, ?_, ?_⟩
  · rw [exec_encode_of_inRange ⟨hsysP, hunitP, hstate⟩ ⟨hsys0, hsys31⟩ ⟨hunit0, hunit31⟩, respond,
      frameResponse, commandResponse, inRangeCommand, OnOff.bit_ite]
  · rw [getElem_buildFrame _ _ _ hi, windowBit_inRangeCommand q (by omega),
      toNat_patternSlot _ _ (Nat.mod_lt _ (by decide))]
  · rw [getElem_buildFrame_48, short]
  · rw [getElem_buildFrame_49, footer]

/-- The low five bits of a raw candidate in range are 0 only where the candidate is. -/
theorem extractLsb_eq_zero_iff_of_inRange {v : RawCode} (h0 : 0 ≤ v.toInt) (h31 : v.toInt ≤ 31) :
    v.extractLsb 4 0 = 0#5 ↔ v = 0#32 := by
  have value := toNat_extractLsb_of_inRange h0 h31
  constructor
  · intro h
    rw [h] at value
    exact BitVec.eq_of_toInt_eq value.symm
  · rintro rfl
    rfl

/-- Settles O19: the thresholding of the frame gives the codes back, and element 11, which is 1 for
On, is decoded as Off. -/
theorem roundTripInvertsTheState : Obligations.RoundTripInvertsTheState := by
  intro q p s u hsysP hunitP hstate hsys0 hsys31 hunit0 hunit31
  have unit := extractLsb_eq_zero_iff_of_inRange hunit0 hunit31
  have unitBits : (threshold s.config (buildFrame s.config (inRangeCommand q))).extractLsb 9 5 =
      q.rawUnit.extractLsb 4 0 := unit_threshold_buildFrame s.config (inRangeCommand q)
  refine ⟨_, _, exec_encode_of_inRange ⟨hsysP, hunitP, hstate⟩ ⟨hsys0, hsys31⟩ ⟨hunit0, hunit31⟩ s,
    rfl, rfl, fun hne => ?_, fun hzero => ?_⟩
  · rw [exec_decode_of_unit_ne_zero (by rw [frameResponse, unitBits]; exact mt unit.mp hne), respond,
      commandResponse, OnOff.bit_ite_eq_false]
    simp only [frameResponse, unitBits, sys_threshold_buildFrame, state_threshold_buildFrame]
    simp [inRangeCommand, blankFrame]
  · rw [exec_decode_of_unit_eq_zero (by rw [frameResponse, unitBits]; exact unit.mpr hzero),
      raise_suppressedDecode]
    rfl

end Sys2Proof.Machine

/-! One step, action by action (10_state.md R31, 70_reset_and_hazards.md): when the engine's turn
accepts, what each action of the script makes the step do, and the statements about the ports. -/

namespace Sys2Proof.Machine

section
variable {s : State} {rest : List Action}

/-- ACCEPT is enabled: nothing pending and a request offered (10_state.md R31). -/
theorem engineTurn_of_offered {w : RequestWord} (hp : s.pending = none) (ho : s.offered = some w) :
    engineTurn s = exec (decodeWord w) (withdrawRequest s) := by
  rw [engineTurn, hp, ho]

/-- ACCEPT is not enabled (60_exceptions.md R215). -/
theorem engineTurn_of_idle (h : s.offered = none ∨ s.pending ≠ none) : engineTurn s = .next s := by
  rcases engineTurn_cases s with ⟨w, hp, ho, -⟩ | ⟨-, e⟩
  · simp [hp, ho] at h
  · exact e

/-- The engine's turn is total, since every operation is (60_exceptions.md R209). -/
theorem engineTurn_next (s : State) : ∃ t, engineTurn s = .next t := by
  rcases engineTurn_cases s with ⟨w, -, -, e⟩ | ⟨-, e⟩
  · obtain ⟨r, ds, hx⟩ := exec_next (decodeWord w) (withdrawRequest s)
    exact ⟨_, e.trans hx⟩
  · exact ⟨_, e⟩

theorem step_of_nil (h : s.script = []) : step s = engineTurn s := by
  rw [step, turn, h]

theorem step_of_engine (h : s.script = .engine :: rest) :
    step s = engineTurn { s with script := rest } := by
  rw [step, turn, h]
  rfl

theorem step_of_offer {w : RequestWord} (h : s.script = .offer w :: rest) :
    step s = .next { s with offered := some w, script := rest } := by
  rw [step, turn, h]
  rfl

theorem step_of_withdraw (h : s.script = .withdraw :: rest) :
    step s = .next { s with offered := none, script := rest } := by
  rw [step, turn, h]
  rfl

theorem step_of_take_of_some {r : Response} (h : s.script = .take :: rest)
    (hp : s.pending = some r) :
    step s = .next { s with pending := none, taken := s.taken ++ [r], script := rest } := by
  simp only [step, turn, h, act, hp, takeResponse]

/-- A TAKE with nothing pending waits and the engine has the turn (notes/assumptions/5.md). -/
theorem step_of_take_of_none (h : s.script = .take :: rest) (hp : s.pending = none) :
    step s = engineTurn s := by
  simp only [step, turn, h, act, hp]

theorem step_of_reset (h : s.script = .reset :: rest) :
    step s = .next { s with pending := none, script := rest } := by
  rw [step, turn, h]
  rfl

theorem step_of_readResponse_of_some {r : Response} (h : s.script = .readResponse :: rest)
    (hp : s.pending = some r) :
    step s = .next { s with script := rest, readings := s.readings ++ [.response r] } := by
  simp only [step, turn, h, act, readResponse, hp, noteReading]

theorem step_of_readResponse_of_none (h : s.script = .readResponse :: rest)
    (hp : s.pending = none) : step s = .fault .readWithoutResponse := by
  simp only [step, turn, h, act, readResponse, hp]

theorem step_of_readMetadata (h : s.script = .readMetadata :: rest) :
    step s = .next { s with
      script := rest, readings := s.readings ++ [.metadata (metadata s.config)] } := by
  rw [step, turn, h]
  rfl

/-- Settles O25: `withFetchWord` puts the engine before its turn with the table word offered. -/
theorem stepRunsTheOfferedRequest : Obligations.StepRunsTheOfferedRequest := by
  refine ⟨fun s w hp ho => ⟨fun rest h => ?_, fun h => ?_, fun rest h => ?_⟩, fun s n w i hi => ?_⟩
  · exact (step_of_engine h).trans (engineTurn_of_offered hp ho)
  · exact (step_of_nil h).trans (engineTurn_of_offered hp ho)
  · exact (step_of_take_of_none h hp).trans (engineTurn_of_offered hp ho)
  · rw [State.withFetchWord, step_of_engine (offeringNow_script s _),
      engineTurn_of_offered (w := tableWord n w) rfl rfl, decodeTableWord_eq_some hi]
    rfl

/-- The three ways the engine gets the turn with nothing pending, and what is then left of the script
(notes/assumptions/3.md, 5.md). -/
def TurnLeaves (script left : List Action) : Prop :=
  script = .engine :: left ∨ (script = [] ∧ left = []) ∨
    ∃ rest, script = .take :: rest ∧ left = .take :: rest

/-- Whichever way the engine gets the turn, the offered request is run and used up
(10_state.md R31, notes/assumptions/4.md). -/
theorem step_of_turnLeaves {w : RequestWord} {left : List Action} (hp : s.pending = none)
    (ho : s.offered = some w) (h : TurnLeaves s.script left) :
    step s = exec (decodeWord w) { s with offered := none, script := left } := by
  obtain ⟨byEngine, byNil, byTake⟩ := stepRunsTheOfferedRequest.1 s w hp ho
  rcases h with h | ⟨h, rfl⟩ | ⟨rest, h, rfl⟩
  · exact byEngine left h
  · rw [byNil h, ← h]
  · rw [byTake rest h, ← h]

/-- Settles O26: the step runs the operation, and every operation answers. -/
theorem everyAcceptedRequestIsAnsweredAtOnce :
    Obligations.EveryAcceptedRequestIsAnsweredAtOnce := by
  intro s w left hp ho h
  obtain ⟨r, ds, hx, -, hop, -⟩ :=
    everyOperationAnswersOneResponse (decodeWord w) { s with offered := none, script := left }
  exact ⟨_, r, (step_of_turnLeaves hp ho h).trans hx, rfl, hop, rfl, rfl, rfl, rfl, rfl⟩

/-- Settles O27: the TAKE empties the register, so the engine's turn accepts. -/
theorem afterAnErrorTheNextRequestIsAccepted :
    Obligations.AfterAnErrorTheNextRequestIsAccepted := by
  intro s op c w left hp ho h
  obtain ⟨after, take, turn⟩ : ∃ after, s.script = .take :: after ∧ TurnLeaves after left := by
    rcases h with h | ⟨h, rfl⟩ | ⟨rest, h, rfl⟩
    · exact ⟨_, h, .inl rfl⟩
    · exact ⟨_, h, .inr (.inl ⟨rfl, rfl⟩)⟩
    · exact ⟨_, h, .inr (.inr ⟨rest, rfl, rfl⟩)⟩
  exact ⟨_, step_of_take_of_some take hp, rfl, step_of_turnLeaves rfl ho turn⟩

/-- Settles O29: a TAKE with a response pending does not wait. -/
theorem takeHandsOverThePendingResponse : Obligations.TakeHandsOverThePendingResponse :=
  fun _ _ _ hp h => step_of_take_of_some h hp

/-- Settles O30: the register is empty after the reset, so the read faults. -/
theorem resetDiscardsThePendingResponse : Obligations.ResetDiscardsThePendingResponse :=
  fun _ _ h => ⟨_, step_of_reset h, rfl, step_of_readResponse_of_none rfl rfl⟩

/-- Settles O31: nothing is pending right after reset, so the read faults. -/
theorem resetLeavesTheEngineIdle : Obligations.ResetLeavesTheEngineIdle :=
  ⟨fun _ => ⟨rfl, rfl, rfl, step_of_readResponse_of_none rfl rfl, rfl⟩, Config.installed, rfl, rfl⟩

/-- Settles O33: a read only notes the outputs, which are functions of the configuration, and no step
changes that. -/
theorem metadataOutputsAreConstant : Obligations.MetadataOutputsAreConstant := by
  refine fun s => ⟨fun rest h => step_of_readMetadata h, fun t h => ?_⟩
  rw [configurationIsFixedForLife s t h]

/-- Settles O36: ACCEPT is not enabled in any of the three cases. -/
theorem anIdleEngineKeepsItsState : Obligations.AnIdleEngineKeepsItsState := by
  refine fun s => ⟨fun h idle => ?_, fun rest h idle => ?_, fun rest h hp ho => ?_⟩
  · exact (step_of_nil h).trans (engineTurn_of_idle idle)
  · exact (step_of_engine h).trans (engineTurn_of_idle idle)
  · exact (step_of_take_of_none h hp).trans (engineTurn_of_idle (.inl ho))

/-- Settles O37: the condition is `Parameters.Legal` in numbers. -/
theorem onlyLegalConfigurationsAreBuilt : Obligations.OnlyLegalConfigurationsAreBuilt :=
  fun p => ⟨fun illegal => dif_neg illegal,
    fun legal => ⟨State.resetWith ⟨p, legal⟩, dif_pos legal, rfl, rfl, rfl⟩⟩

/-- Settles O42: an offer writes the whole port, and the turn runs what stands there. -/
theorem offersReplaceEachOtherWhole : Obligations.OffersReplaceEachOtherWhole := by
  refine fun s rest => ⟨fun w h => step_of_offer h, fun h => step_of_withdraw h,
    fun v w hp h => ?_, fun w hp h => ?_, fun h => ?_⟩
  · exact ⟨_, _, step_of_offer h, step_of_offer rfl, step_of_turnLeaves hp rfl (.inl rfl)⟩
  · exact ⟨_, step_of_offer h, step_of_turnLeaves hp rfl (.inl rfl)⟩
  · exact ⟨_, step_of_withdraw h, (step_of_engine rfl).trans (engineTurn_of_idle (.inl rfl))⟩

end

/-- Settles O28: with a response pending the engine's turn does nothing, and of the other actions
only TAKE and reset touch the register. -/
theorem noResponseIsOverwrittenUnread : Obligations.NoResponseIsOverwrittenUnread := by
  intro s t r hp h
  have idle (left : List Action) :
      engineTurn { s with script := left } = .next { s with script := left } :=
    engineTurn_of_idle (.inr (by simp [hp]))
  rcases hs : s.script with _ | ⟨a, rest⟩
  · rw [step_of_nil hs, idle s.script] at h
    cases h
    exact ⟨.inl ⟨hp, rfl⟩, fun _ _ => rfl⟩
  cases a with
  | engine =>
    rw [step_of_engine hs, idle] at h
    cases h
    exact ⟨.inl ⟨hp, rfl⟩, fun _ _ => rfl⟩
  | offer w =>
    rw [step_of_offer hs] at h
    cases h
    exact ⟨.inl ⟨hp, rfl⟩, fun offers _ => absurd rfl (offers w)⟩
  | withdraw =>
    rw [step_of_withdraw hs] at h
    cases h
    exact ⟨.inl ⟨hp, rfl⟩, fun _ withdraws => absurd rfl withdraws⟩
  | take =>
    rw [step_of_take_of_some hs hp] at h
    cases h
    exact ⟨.inr (.inl ⟨rfl, rfl, rfl⟩), fun _ _ => rfl⟩
  | reset =>
    rw [step_of_reset hs] at h
    cases h
    exact ⟨.inr (.inr ⟨rfl, rfl, rfl⟩), fun _ _ => rfl⟩
  | readResponse =>
    rw [step_of_readResponse_of_some hs hp] at h
    cases h
    exact ⟨.inl ⟨hp, rfl⟩, fun _ _ => rfl⟩
  | readMetadata =>
    rw [step_of_readMetadata hs] at h
    cases h
    exact ⟨.inl ⟨hp, rfl⟩, fun _ _ => rfl⟩

/-- A step answers a next state, or it is a read of the response fields with none pending
(70_reset_and_hazards.md R253). -/
theorem step_next_or_fault (s : State) :
    (∃ t, step s = .next t) ∨
    (s.script.head? = some .readResponse ∧ s.pending = none ∧
      step s = .fault .readWithoutResponse) := by
  rcases step_cases s with ⟨-, e⟩ | ⟨rest, -, e⟩ | ⟨w, rest, -, e⟩ | ⟨rest, -, e⟩ |
    ⟨r, rest, -, -, e⟩ | ⟨rest, -, -, e⟩ | ⟨rest, -, e⟩ | ⟨r, rest, -, -, e⟩ | ⟨rest, hs, hp, e⟩ |
    ⟨rest, -, e⟩
  · exact .inl (e ▸ engineTurn_next s)
  · exact .inl (e ▸ engineTurn_next { s with script := rest })
  · exact .inl ⟨_, e⟩
  · exact .inl ⟨_, e⟩
  · exact .inl ⟨_, e⟩
  · exact .inl (e ▸ engineTurn_next s)
  · exact .inl ⟨_, e⟩
  · exact .inl ⟨_, e⟩
  · exact .inr ⟨by rw [hs]; rfl, hp, e⟩
  · exact .inl ⟨_, e⟩

/-- Settles O32: the two outcomes of a step exclude each other, and the read that faults is the only
one that does. -/
theorem onlyAReadWithoutResponseStops : Obligations.OnlyAReadWithoutResponseStops := by
  intro s
  refine ⟨fun f => ⟨fun h => ?_, ?_⟩, fun f h => ?_, fun safe => ?_,
    fun r rest hp h => step_of_readResponse_of_some h hp, fun rest h => step_of_readMetadata h⟩
  · rcases step_next_or_fault s with ⟨t, e⟩ | ⟨hs, hp, e⟩
    · cases e.symm.trans h
    · cases e.symm.trans h
      exact ⟨rfl, hs, hp⟩
  · rintro ⟨rfl, hs, hp⟩
    obtain ⟨rest, hs⟩ := List.head?_eq_some_iff.mp hs
    exact step_of_readResponse_of_none hs hp
  · rcases step_next_or_fault s with ⟨t, e⟩ | ⟨-, -, e⟩ <;> cases e.symm.trans h
  · exact (step_next_or_fault s).resolve_right fun ⟨hs, hp, _⟩ => safe hs hp

/-- An answer without a record leaves the diagnostic output as it was. -/
theorem respond_eq_append_nil (r : Response) (s : State) :
    respond r s = { s with pending := some r, diag := s.diag ++ [] } := by
  rw [List.append_nil, respond]

/-- The answer and the records of an operation are the same in all states of one configuration
(95_test_vectors.md, law L-DET). -/
theorem exec_of_config (i : Instr) (cfg : Config) :
    ∃ (r : Response) (ds : List Diag), ∀ s : State, s.config = cfg →
      exec i s = .next { s with pending := some r, diag := s.diag ++ ds } := by
  cases i with
  | validate q =>
    cases h : validate q with
    | error c => exact ⟨_, c.diag, fun s _ => exec_of_validate_error (.inl rfl) h s⟩
    | ok c =>
      refine ⟨commandResponse .validate c, [], fun s _ => ?_⟩
      rw [exec_validate_of_ok h, respond_eq_append_nil]
  | encode q =>
    cases h : validate q with
    | error c => exact ⟨_, c.diag, fun s _ => exec_of_validate_error (.inr rfl) h s⟩
    | ok c =>
      refine ⟨frameResponse .encode c (buildFrame cfg c), [], ?_⟩
      rintro s rfl
      rw [exec_encode_of_ok h, respond_eq_append_nil]
  | decode q =>
    by_cases h : q.bits.extractLsb 9 5 = 0#5
    · exact ⟨_, _, fun s _ => exec_decode_of_unit_eq_zero h s⟩
    · exact ⟨_, [], fun s _ =>
        (exec_decode_of_unit_ne_zero h s).trans (congrArg _ (respond_eq_append_nil _ s))⟩
  | reserved3 q => exact ⟨_, _, fun s _ => exec_reserved3_eq q s⟩

/-- Settles O24: the two states have the configuration that decides. -/
theorem historyDoesNotInfluenceResponses : Obligations.HistoryDoesNotInfluenceResponses := by
  intro i s u h
  obtain ⟨r, ds, hx⟩ := exec_of_config i s.config
  exact ⟨r, ds, hx s rfl, hx u h.symm⟩

/-- A platform is uniform when every engine has its configuration (20_memory.md R51). -/
theorem Platform.uniform_iff (p : Platform) :
    p.uniform = true ↔ ∀ s ∈ p.engines, s.config = p.config := by
  simp [Platform.uniform]

/-- Settles O38: a platform's step writes the place of the engine that moved, which keeps its
configuration. -/
theorem enginesDoNotDisturbEachOther : Obligations.EnginesDoNotDisturbEachOther := by
  intro p k
  constructor
  · intro s t hk h
    refine ⟨{ p with engines := p.engines.set k t }, by simp only [Platform.step, hk, h], ?_⟩
    obtain ⟨inside, -⟩ := List.getElem?_eq_some_iff.mp hk
    exact List.getElem?_set_self inside
  · intro p' h
    rcases Platform.step_next_cases h with ⟨-, rfl⟩ | ⟨s, t, hk, ht, rfl⟩
    · exact ⟨rfl, rfl, fun _ _ => rfl, id⟩
    · refine ⟨rfl, List.length_set, fun j hj => List.getElem?_set_ne hj.symm, fun uniform => ?_⟩
      rw [Platform.uniform_iff] at uniform ⊢
      intro x hx
      rcases List.mem_or_eq_of_mem_set hx with hx | rfl
      · exact uniform x hx
      · rw [configurationIsFixedForLife s x ht]
        exact uniform s (List.mem_of_getElem? hk)

end Sys2Proof.Machine

/-! The invariant (10_state.md R24 to R28, 60_exceptions.md R202 to R205): what each operation answers
and records is such as the spec allows, every update of the state keeps `State.Inv`, and the
statements about it. -/

namespace Sys2Proof.Machine

/-- Which operation can raise which cause; a range failure names an address field
(60_exceptions.md R202 to R205). -/
def Cause.RaisedBy : Cause → Op → Prop
  | .missingField _, op => op = .validate ∨ op = .encode
  | .outOfRange f, op => (op = .validate ∨ op = .encode) ∧ f ≠ .state
  | .suppressedDecode, op => op = .decode
  | .illegalOp, op => op = .reserved3

/-- The validator's failures are those VALIDATE and ENCODE can raise. -/
theorem raisedBy_of_validate_error {q : Request} {c : Cause} {op : Op} (h : validate q = .error c)
    (hop : op = .validate ∨ op = .encode) : c.RaisedBy op := by
  rcases validate_error_cases h with ⟨f, rfl⟩ | rfl | rfl
  · exact hop
  · exact ⟨hop, nofun⟩
  · exact ⟨hop, nofun⟩

/-- The error response of a cause, in an operation that can raise it (60_exceptions.md R201). -/
theorem errorResponse_ok (cfg : Config) {c : Cause} {op : Op} (h : c.RaisedBy op) :
    (errorResponse op c.status c.field).Ok cfg := by
  cases c with
  | missingField f =>
    rcases h with rfl | rfl <;> constructor <;> simp [errorResponse, Cause.status, Cause.field]
  | outOfRange f =>
    obtain ⟨rfl | rfl, hf⟩ := h <;> constructor <;>
      simp [errorResponse, Cause.status, Cause.field, hf]
  | suppressedDecode =>
    obtain rfl := h
    constructor <;> simp [errorResponse, Cause.status, Cause.field]
  | illegalOp =>
    obtain rfl := h
    constructor <;> simp [errorResponse, Cause.status, Cause.field]

/-- The records of a cause, in an operation that can raise it (10_state.md R26). -/
theorem Cause.diag_ok {c : Cause} {op : Op} (h : c.RaisedBy op) : ∀ d ∈ c.diag, d.Ok := by
  cases c with
  | missingField f => simp [Cause.diag, Diag.Ok]
  | outOfRange f =>
    obtain ⟨-, hf⟩ := h
    simp [Cause.diag, Diag.Ok, hf]
  | suppressedDecode => nofun
  | illegalOp => nofun

/-- The answer of a command without a frame: VALIDATE's, or DECODE's of a unitcode that is not 0. -/
theorem commandResponse_ok (cfg : Config) {c : Command} {op : Op}
    (h : op = .validate ∨ (op = .decode ∧ c.unit ≠ 0#5)) : (commandResponse op c).Ok cfg := by
  rcases h with rfl | ⟨rfl, hunit⟩
  · constructor <;> simp [commandResponse]
  · constructor <;> simp [commandResponse, hunit]

/-- The frame ENCODE answers carries its command (30_encoding.md R63, R64). -/
theorem frameCarries_buildFrame (cfg : Config) (c : Command) :
    frameCarries cfg (buildFrame cfg c) c.sys c.unit c.state.bit := by
  have state : c.state.bit = (c.state == .on) := by cases c.state <;> rfl
  rw [state]
  exact ⟨fun w => window_buildFrame cfg c, getElem_buildFrame_48 cfg c, getElem_buildFrame_49 cfg c⟩

/-- ENCODE's answer carries its own command's frame (41_encoder.md R130). -/
theorem frameResponse_ok (cfg : Config) (c : Command) :
    (frameResponse .encode c (buildFrame cfg c)).Ok cfg := by
  have carries := frameCarries_buildFrame cfg c
  constructor <;> simp [frameResponse, commandResponse, carries]

/-- The operation answers and records what the spec allows, and does nothing else. -/
def AnswersAsAllowed (i : Instr) (s : State) : Prop :=
  ∃ r ds, exec i s = .next (respond r (emitDiag ds s)) ∧ r.Ok s.config ∧ ∀ d ∈ ds, d.Ok

theorem answersAsAllowed_of_raise {i : Instr} {s : State} {c : Cause} {op : Op}
    (h : c.RaisedBy op) (e : exec i s = .next (raise op c s)) : AnswersAsAllowed i s :=
  ⟨_, _, e, errorResponse_ok s.config h, Cause.diag_ok h⟩

theorem answersAsAllowed_of_respond {i : Instr} {s : State} {r : Response} (h : r.Ok s.config)
    (e : exec i s = .next (respond r s)) : AnswersAsAllowed i s :=
  ⟨r, [], e.trans (congrArg _ (respond_eq_append_nil r s)), h, List.forall_mem_nil _⟩

theorem exec_answersAsAllowed (i : Instr) (s : State) : AnswersAsAllowed i s := by
  cases i with
  | validate q =>
    rcases exec_validate_cases q s with ⟨c, hc, e⟩ | ⟨c, -, e⟩
    · exact answersAsAllowed_of_raise (raisedBy_of_validate_error hc (.inl rfl)) e
    · exact answersAsAllowed_of_respond (commandResponse_ok _ (.inl rfl)) e
  | encode q =>
    rcases exec_encode_cases q s with ⟨c, hc, e⟩ | ⟨c, -, e⟩
    · exact answersAsAllowed_of_raise (raisedBy_of_validate_error hc (.inr rfl)) e
    · exact answersAsAllowed_of_respond (frameResponse_ok _ c) e
  | decode q =>
    by_cases hunit : q.bits.extractLsb 9 5 = 0#5
    · exact answersAsAllowed_of_raise (c := .suppressedDecode) rfl (exec_decode_of_unit_eq_zero hunit s)
    · exact answersAsAllowed_of_respond (commandResponse_ok _ (.inr ⟨rfl, hunit⟩))
        (exec_decode_of_unit_ne_zero hunit s)
  | reserved3 q => exact answersAsAllowed_of_raise (c := .illegalOp) rfl (exec_reserved3_eq q s)

theorem ok_of_none_eq_some (cfg : Config) : ∀ r, none = some r → Response.Ok cfg r :=
  fun r h => absurd h.symm (Option.some_ne_none r)

section
variable {s : State} (inv : s.Inv)
include inv

/-- The invariant does not speak of the offer and the actions to come. -/
theorem inv_ports (offered : Option RequestWord) (script : List Action) :
    ({ s with offered := offered, script := script } : State).Inv :=
  ⟨inv.pending, inv.taken, inv.readings, inv.diag⟩

theorem inv_respond_emitDiag {r : Response} {ds : List Diag} (hr : r.Ok s.config)
    (hds : ∀ d ∈ ds, d.Ok) : (respond r (emitDiag ds s)).Inv where
  pending := by rintro _ ⟨⟩; exact hr
  taken := inv.taken
  readings := inv.readings
  diag := List.forall_mem_append.mpr ⟨inv.diag, hds⟩

theorem inv_takeResponse {r : Response} (hr : r.Ok s.config) : (takeResponse r s).Inv where
  pending := ok_of_none_eq_some s.config
  taken := List.forall_mem_append.mpr ⟨inv.taken, List.forall_mem_singleton.mpr hr⟩
  readings := inv.readings
  diag := inv.diag

theorem inv_resetEngine : (resetEngine s).Inv := 
  ⟨ok_of_none_eq_some s.config, inv.taken, inv.readings, inv.diag⟩

theorem inv_noteReading {x : Reading} (hx : x.Ok s.config) : (noteReading x s).Inv where
  pending := inv.pending
  taken := inv.taken
  readings := List.forall_mem_append.mpr ⟨inv.readings, List.forall_mem_singleton.mpr hx⟩
  diag := inv.diag

theorem engineTurn_keeps_inv {t : State} (h : engineTurn s = .next t) : t.Inv := by
  rcases engineTurn_next_cases h with ⟨w, -, -, hx⟩ | rfl
  · obtain ⟨r, ds, e, hr, hds⟩ := exec_answersAsAllowed (decodeWord w) (withdrawRequest s)
    obtain rfl := Host.Outcome.next.inj (e.symm.trans hx)
    exact inv_respond_emitDiag (inv_ports inv none s.script) hr hds
  · exact inv

end

/-- Settles O39: nothing has been answered, recorded or read yet. -/
theorem resetMeetsTheInvariant : Obligations.ResetMeetsTheInvariant := by
  have reset (c : Config) : (State.resetWith c).Inv :=
    ⟨ok_of_none_eq_some c, List.forall_mem_nil _, List.forall_mem_nil _, List.forall_mem_nil _⟩
  exact ⟨reset, reset Config.installed⟩

/-- Settles O40: a step is a turn of the engine, whose answer is such as the spec allows, or it moves
what the invariant already speaks of. -/
theorem everyStepKeepsTheInvariant : Obligations.EveryStepKeepsTheInvariant := by
  intro s t inv h
  have left (rest : List Action) : ({ s with script := rest } : State).Inv :=
    inv_ports inv s.offered rest
  rcases step_cases s with ⟨-, e⟩ | ⟨rest, -, e⟩ | ⟨w, rest, -, e⟩ | ⟨rest, -, e⟩ |
    ⟨r, rest, -, hp, e⟩ | ⟨rest, -, -, e⟩ | ⟨rest, -, e⟩ | ⟨r, rest, -, hp, e⟩ | ⟨rest, -, -, e⟩ |
    ⟨rest, -, e⟩ <;> rw [e] at h
  · exact engineTurn_keeps_inv inv h
  · exact engineTurn_keeps_inv (left rest) h
  · cases h; exact inv_ports inv (some w) rest
  · cases h; exact inv_ports inv none rest
  · cases h; exact inv_takeResponse (left rest) (inv.pending r hp)
  · exact engineTurn_keeps_inv inv h
  · cases h; exact inv_resetEngine (left rest)
  · cases h; exact inv_noteReading (left rest) (inv.pending r hp)
  · cases h
  · cases h; exact inv_noteReading (left rest) rfl

end Sys2Proof.Machine

/-! The request text (30_encoding.md R73): decimal numbers, signed integers and raw candidates as they
are read, and the statements about them. -/

namespace Sys2Proof.Machine

/-- The number a list of decimal digits stands for, the first digit weighing most. -/
def digitsValue (ds : List Char) : Nat := ds.foldl (fun n d => 10 * n + (d.toNat - '0'.toNat)) 0

theorem digitsValue_append_singleton (ds : List Char) (c : Char) :
    digitsValue (ds ++ [c]) = 10 * digitsValue ds + (c.toNat - '0'.toNat) := by
  rw [digitsValue, List.foldl_append]
  rfl

/-- A number is a list of at least one digit, and its value is theirs (30_encoding.md R73). -/
theorem readNat_eq_some_iff {ds : List Char} {n : Nat} :
    readNat ds = some n ↔ ds ≠ [] ∧ (∀ c ∈ ds, c.isDigit = true) ∧ digitsValue ds = n := by
  cases ds with
  | nil => simp [readNat]
  | cons c cs =>
    by_cases digits : (c :: cs).all Char.isDigit = true
    · simpa [readNat, digits, digitsValue] using fun _ => List.all_eq_true.mp digits
    · have other : ¬ ∀ x ∈ c :: cs, x.isDigit = true := mt List.all_eq_true.mpr digits
      simpa [readNat, digits] using fun h h' => absurd (List.forall_mem_cons.mpr ⟨h, h'⟩) other

theorem isDigit_iff (c : Char) : c.isDigit = true ↔ 48 ≤ c.toNat ∧ c.toNat ≤ 57 := by
  rw [Char.isDigit, Bool.and_eq_true, decide_eq_true_iff, decide_eq_true_iff]
  rfl

/-- The character of a digit is a digit and stands for it. -/
theorem digit_ofNat {d : Nat} (h : d < 10) :
    (Char.ofNat (48 + d)).isDigit = true ∧ (Char.ofNat (48 + d)).toNat - '0'.toNat = d := by
  revert d
  decide

theorem readNat_digit {d : Nat} (h : d < 10) : readNat [Char.ofNat (48 + d)] = some d := by
  obtain ⟨isDigit, value⟩ := digit_ofNat h
  exact readNat_eq_some_iff.mpr ⟨List.cons_ne_nil _ _, List.forall_mem_singleton.mpr isDigit,
    (digitsValue_append_singleton [] _).trans ((Nat.zero_add _).trans value)⟩

theorem readNat_append_digit {ds : List Char} {n d : Nat} (hn : readNat ds = some n) (hd : d < 10) :
    readNat (ds ++ [Char.ofNat (48 + d)]) = some (10 * n + d) := by
  obtain ⟨isDigit, value⟩ := digit_ofNat hd
  obtain ⟨-, digits, rfl⟩ := readNat_eq_some_iff.mp hn
  refine readNat_eq_some_iff.mpr ⟨List.append_ne_nil_of_right_ne_nil _ (List.cons_ne_nil _ _),
    List.forall_mem_append.mpr ⟨digits, List.forall_mem_singleton.mpr isDigit⟩, ?_⟩
  rw [digitsValue_append_singleton, value]

theorem readNat_eq_none_of_mem {ds : List Char} {c : Char} (hc : c ∈ ds)
    (h : c.toNat < 48 ∨ 57 < c.toNat) : readNat ds = none := by
  refine Option.eq_none_iff_forall_ne_some.mpr fun n hn => ?_
  obtain ⟨-, digits, -⟩ := readNat_eq_some_iff.mp hn
  have digit := (isDigit_iff c).mp (digits c hc)
  omega

theorem readInt_minus (ds : List Char) :
    readInt ('-' :: ds) = (readNat ds).map fun n : Nat => -(n : Int) := by
  rw [readInt]
  cases readNat ds <;> rfl

theorem readInt_of_not_minus {w : List Char} (h : ∀ ds, w ≠ '-' :: ds) :
    readInt w = (readNat w).map fun n : Nat => (n : Int) := by
  unfold readInt
  split
  · exact absurd rfl (h _)
  · cases readNat w <;> rfl

/-- A number does not begin with `-`. -/
theorem ne_minus_of_readNat {ds : List Char} {n : Nat} (h : readNat ds = some n) (cs : List Char) :
    ds ≠ '-' :: cs := by
  rintro rfl
  rw [readNat_eq_none_of_mem List.mem_cons_self (by decide)] at h
  cases h

theorem readInt_eq_none {w : List Char} (h : readNat w = none)
    (hminus : ∀ ds, w = '-' :: ds → readNat ds = none) : readInt w = none := by
  by_cases minus : ∃ ds, w = '-' :: ds
  · obtain ⟨ds, rfl⟩ := minus
    rw [readInt_minus, hminus ds rfl, Option.map_none]
  · rw [readInt_of_not_minus (not_exists.mp minus), h, Option.map_none]

section
variable {w : List Char} {v : Int}

/-- A raw candidate in its range is read as the word of its value (30_encoding.md R73). -/
theorem readRaw_of_inRange (h : readInt w = some v) (lo : -(2 ^ 31) ≤ v) (hi : v ≤ 2 ^ 31 - 1) :
    readRaw w = .ok (BitVec.ofInt 32 v) := by
  simp only [readRaw, h, if_pos (And.intro lo hi)]

theorem readRaw_of_not_inRange (h : readInt w = some v) (out : v < -(2 ^ 31) ∨ 2 ^ 31 - 1 < v) :
    readRaw w = .error .notRepresentable := by
  have outside : ¬ (-(2 ^ 31) ≤ v ∧ v ≤ 2 ^ 31 - 1) := by omega
  simp only [readRaw, h, if_neg outside]

theorem readRaw_of_none (h : readInt w = none) : readRaw w = .error .malformedOperand := by
  simp only [readRaw, h]

end

/-- Settles O43: digits are read from the last, an integer is a number with or without `-`, and 32
bits hold the integers of the range. -/
theorem rawCandidatesAreReadWithinTheirRange : Obligations.RawCandidatesAreReadWithinTheirRange := by
  refine ⟨fun d => readNat_digit, fun ds n d => readNat_append_digit, rfl,
    fun ds ⟨c, hc, h⟩ => readNat_eq_none_of_mem hc h, fun ds n h => ⟨?_, ?_⟩,
    fun w => readInt_eq_none, fun w v h lo hi => ⟨_, readRaw_of_inRange h lo hi, ?_⟩,
    fun w v => readRaw_of_not_inRange, fun w => readRaw_of_none⟩
  · rw [readInt_of_not_minus (ne_minus_of_readNat h), h, Option.map_some]
  · rw [readInt_minus, h, Option.map_some]
  · exact BitVec.toInt_ofInt_eq_self (by decide) lo (by omega)

/-- Settles O6: the lines are read by computation. -/
theorem requestLinesReadAsTheirWords : Obligations.RequestLinesReadAsTheirWords := by
  unfold Obligations.RequestLinesReadAsTheirWords
  decide

end Sys2Proof.Machine

/-! How many vectors DECODE suppresses (42_decoder.md R155; 95_test_vectors.md, law L-COUNT): which
these are, their number by the period of elements 5 to 9, and the statement about them. -/

namespace Sys2Proof.Machine

/-- A vector gives no command exactly where its unitcode is 0 (42_decoder.md R154). -/
theorem decodeBits_eq_none_iff (bits : BitVector) :
    decodeBits bits = none ↔ bits.extractLsb 9 5 = 0#5 := by
  rcases decodeBits_cases bits with ⟨hunit, e⟩ | ⟨hunit, e⟩
  · exact iff_of_true e hunit
  · refine iff_of_false ?_ hunit
    rw [e]
    exact Option.some_ne_none _

theorem decodeBits_congr {a b : BitVector} (sys : a.extractLsb 4 0 = b.extractLsb 4 0)
    (unit : a.extractLsb 9 5 = b.extractLsb 9 5) (state : a.getLsbD 11 = b.getLsbD 11) :
    decodeBits a = decodeBits b := by
  rw [decodeBits, decodeBits, fromBits_sys, fromBits_unit, fromBits_sys, fromBits_unit, sys, unit,
    state]

theorem getLsbD_xor_element_ten (bits : BitVector) {k : Nat} (h : k ≠ 10) :
    (bits ^^^ (1#12 <<< 10)).getLsbD k = bits.getLsbD k := by
  have other : (1#12 <<< 10).getLsbD k = false := by
    rw [BitVec.getLsbD_shiftLeft, BitVec.getLsbD_one]
    simp
    omega
  rw [BitVec.getLsbD_xor, other, Bool.xor_false]

/-- Element 10 belongs to no field of a command (the spec's decision D14). -/
theorem decodeBits_xor_element_ten (bits : BitVector) :
    decodeBits (bits ^^^ (1#12 <<< 10)) = decodeBits bits := by
  refine decodeBits_congr ?_ ?_ (getLsbD_xor_element_ten bits (by decide))
  · ext k hk
    simpa [hk] using getLsbD_xor_element_ten bits (k := k) (by omega)
  · ext k hk
    simpa [hk] using getLsbD_xor_element_ten bits (k := 5 + k) (by omega)

/-- Elements 5 to 9 of the vector with number `n` are all 0 (42_decoder.md R155). -/
theorem decodeBits_ofNat_eq_none_iff (n : Nat) :
    decodeBits (BitVec.ofNat 12 n) = none ↔ n % 1024 < 32 := by
  rw [decodeBits_eq_none_iff, ← BitVec.toNat_inj, BitVec.extractLsb_toNat, BitVec.toNat_ofNat,
    Nat.shiftRight_eq_div_pow, BitVec.toNat_ofNat]
  omega

/-- A periodic property holds in `a` periods `a` times as often as in one. -/
theorem count_mul_of_periodic (p : Nat → Prop) [DecidablePred p] {m : Nat}
    (periodic : ∀ n k, p (n * m + k) ↔ p k) (a : Nat) : Nat.count p (a * m) = a * Nat.count p m := by
  induction a with
  | zero => rw [Nat.zero_mul, Nat.zero_mul, Nat.count_zero]
  | succ a ih =>
    have period : Nat.count (fun k => p (a * m + k)) m = Nat.count p m := by
      simp only [periodic a]
    rw [Nat.succ_mul, Nat.count_add, ih, period, Nat.succ_mul]

/-- Of the 1024 numbers of a period the first 32 have unitcode 0 (42_decoder.md R155). -/
theorem count_unit_zero_period : Nat.count (fun n => n % 1024 < 32) (32 + 992) = 32 := by
  have first : Nat.count (fun n => n % 1024 < 32) 32 = 32 :=
    Nat.count_of_forall fun {n} hn => by omega
  have others : Nat.count (fun n => (32 + n) % 1024 < 32) 992 = 0 :=
    Nat.count_of_forall_not fun {n} hn => by omega
  rw [Nat.count_add, first, others]

theorem countP_decodeBits_isNone :
    (List.range 4096).countP (fun n => (decodeBits (BitVec.ofNat 12 n)).isNone) = 128 := by
  have counted : (List.range (4 * 1024)).countP (fun n => (decodeBits (BitVec.ofNat 12 n)).isNone) =
      Nat.count (fun n => n % 1024 < 32) (4 * 1024) :=
    List.countP_congr fun n _ => by
      rw [Option.isNone_iff_eq_none, decodeBits_ofNat_eq_none_iff, decide_eq_true_iff]
  have periods : Nat.count (fun n => n % 1024 < 32) (4 * 1024) = 4 * 32 :=
    (count_mul_of_periodic _ (fun n k => by omega) 4).trans (congrArg (4 * ·) count_unit_zero_period)
  exact counted.trans periods

theorem countP_isSome_of_countP_isNone {α β : Type} {f : α → Option β} {l : List α} {m n : Nat}
    (hnone : l.countP (fun x => (f x).isNone) = m) (hlength : l.length = m + n) :
    l.countP (fun x => (f x).isSome) = n := by
  have rest : l.countP (fun x => (f x).isSome) = l.countP (fun x => ¬ (f x).isNone) :=
    List.countP_congr fun x _ => by cases f x <;> simp
  have both := List.length_eq_countP_add_countP (fun x => (f x).isNone) (l := l)
  omega

/-- What gives a command is the rest of the vectors (42_decoder.md R155). -/
theorem countP_decodeBits_isSome :
    (List.range 4096).countP (fun n => (decodeBits (BitVec.ofNat 12 n)).isSome) = 3968 :=
  countP_isSome_of_countP_isNone countP_decodeBits_isNone List.length_range

/-- Settles O18: a vector is suppressed where its unitcode is 0, which has period 1024 in its number,
and element 10 is in no field. -/
theorem suppressedVectorsAreCounted : Obligations.SuppressedVectorsAreCounted :=
  ⟨fun bits => (decodeBits_eq_none_iff bits).trans (extractLsb_unit_eq_zero_iff bits),
    countP_decodeBits_isNone, countP_decodeBits_isSome, decodeBits_xor_element_ten⟩

end Sys2Proof.Machine
